-- ==== Sys2Proof/Word.lean ====
section
/-! DEFINITION. The word types of the sequencer: a byte of the data bus, a block address, a block, an
event word (R6, R10, R60, R91). -/

namespace Sys2Proof

/-- One byte of the 8-bit data bus; bit 7 is the most significant bit (R6 BUS_BITS, R10). -/
abbrev Byte := BitVec 8

/-- A block address: an unsigned 24-bit number (R6 ADDR_BITS, R60). -/
abbrev BlockAddr := BitVec 24

/-- A block: exactly 532 bytes, indexed 0 to 531 (R6 BLOCK_SIZE, R30). -/
abbrev Block := Vector Byte 532

/-- The status word: four bytes S0 to S3 (R6 STATUS_LEN, R210). -/
abbrev StatusWord := Vector Byte 4

/-- An EVT word (R91) in the two bytes that hold its 12 bits; a word with one of bits 15..12 set is no
event (DESIGN CHOICE, log entry 4). -/
abbrev EventWord := BitVec 16

end Sys2Proof
end

