-- ==== Sys2Proof/Config.lean ====
section
/-! DEFINITION. The fixed constants of the hardware (R6) and the parameters and free values of the
platform (R7, U1 to U6). A constant declared opaque has no body: no proof can learn its value, so
every claim holds whatever it is. -/

namespace Sys2Proof.Config

/-! ### Fixed constants (R6) -/

/-- BLOCK_SIZE, in bytes. -/
abbrev blockSize : Nat := 532

/-- The required acknowledgment byte (R96). -/
def ackByte : Byte := 0x55

/-- Next-action codes (R95). -/
def naGetcmd : Byte := 0x01
/-- Next-action code: read a block. -/
def naRead : Byte := 0x02
/-- Next-action code: receive write data. -/
def naWrdata : Byte := 0x03
/-- Next-action code: receive write/verify data. -/
def naWrvdata : Byte := 0x04
/-- Next-action code: perform write. -/
def naPerform : Byte := 0x06

/-- Command bytes (R94). -/
def cmdRead : Byte := 0x00
/-- Command byte: write. -/
def cmdWrite : Byte := 0x01
/-- Command byte: write-verify. -/
def cmdWriteVerify : Byte := 0x02

/-- The lower reserved block address (R61). -/
def metaAddrLo : BlockAddr := 0xFFFFFE
/-- The upper reserved block address (R61). -/
def metaAddrHi : BlockAddr := 0xFFFFFF

/-- NAME: the 13 bytes that open the metadata block, PROFILE and six spaces (R6, R215). -/
def deviceName : Vector Byte 13 :=
  #v[0x50, 0x52, 0x4F, 0x46, 0x49, 0x4C, 0x45, 0x20, 0x20, 0x20, 0x20, 0x20, 0x20]

/-- P_STATUS: the status word of this design, all zero (R210). -/
def statusWord : StatusWord := #v[0x00, 0x00, 0x00, 0x00]

/-! ### Parameters left open by the source (R7) -/

/-- P_CAPACITY less one: any value below 0xFFFFFE. OPEN (D25, log entry 9). -/
opaque capacityLessOne : Fin 0xFFFFFE

/-- P_CAPACITY: the number of user blocks, 1 to 0xFFFFFE (R7). It feeds the block count of the metadata
block (D25); the sequencer checks no address against it (R68). -/
def capacity : Nat := capacityLessOne.val + 1

/-- The fields of the metadata block after the name, in the source's order (R215). -/
inductive MetaField where
  | deviceNumber
  | firmwareRevision
  | blockCount
  | bytesPerBlock
  | spareSectorCount
  | badBlockList
  deriving DecidableEq, Repr

/-- P_META, where each field after the name starts. OPEN (R215, D29): the source gives no offset. What the
source does say of the places is `metaInOrder` of Machine/Memory.lean. -/
opaque metaFirst : MetaField → Nat

/-- P_META, how many bytes each field after the name has. OPEN (R215, D29): the source gives no width. -/
opaque metaWidth : MetaField → Nat

/-- P_META, whether its two numbers are stored most significant byte first. OPEN (R65: the sequencer
interprets no number but the address; log entry 15). -/
opaque metaBigEndian : Bool

/-- P_META, byte `i` where the source fixes nothing: the device number, the firmware revision, the
spare-sector count, and every byte outside the named fields. OPEN (R215, D29, log entry 9). -/
opaque metaByte : Nat → Byte

/-- P_STATUS_BITPOS: the bit position of a status flag inside its byte, the 17 flags numbered in the
source's order from 0. OPEN (D28); unobservable while the status word is zero. -/
opaque statusBitPos : Fin 17 → Fin 8

/-- P_BLOCKSTORE, an externally wired backend: byte `i` of what `read` answers for an address in the
backend's state (R62, U6). -/
opaque bsRead : (sigma : Nat) → (addr : BlockAddr) → (i : Nat) → Byte

/-- P_BLOCKSTORE, an externally wired backend: its state after `write` (R62). The backend's states are
numbered; any backend whose states can be written down is one of these (log entry 7). -/
opaque bsWrite : (sigma : Nat) → (addr : BlockAddr) → (blk : Block) → Nat

/-! ### Free values -/

/-- A byte the spec leaves unspecified (U1 to U4): byte `i` of the draw numbered `draw`. The state's
draw counter gives every draw a number of its own (log entry 2). -/
opaque freeByte : (draw : Nat) → (i : Nat) → Byte

end Sys2Proof.Config
end

