-- ==== Sys2Proof/Syntax.lean ====
section
/-! DEFINITION. The instructions: one constructor per row of the opcode table. Ten are the host's
events (R90); eleven are the byte codes that travel on the data bus in a phase that gives them their
meaning (R93 to R96). -/

namespace Sys2Proof

/-- One row of the opcode table each. -/
inductive Instr where
  /-- RST.A, rising edge of RESET (R260). -/
  | rstA
  /-- RST.D, falling edge of RESET (R261). -/
  | rstD
  /-- DIR.R, `setDirection(HostRead)` (R122). -/
  | dirR
  /-- DIR.W, `setDirection(HostWrite)` (R123). -/
  | dirW
  /-- STB.A, rising edge of STROBE (R124). -/
  | stbA
  /-- STB.D, falling edge of STROBE (R125). -/
  | stbD
  /-- CMD.A, rising edge of COMMAND (R143). -/
  | cmdA
  /-- CMD.D, falling edge of COMMAND (R154). -/
  | cmdD
  /-- RD, the host reads the data bus (R126). -/
  | rd
  /-- WR b, the host writes the data bus (R127). -/
  | wr (b : Byte)
  /-- READ, the command byte 0x00 (R94, R190). -/
  | read
  /-- WRITE, the command byte 0x01 (R94, R190). -/
  | write
  /-- WRITEVERIFY, the command byte 0x02 (R94, R190). -/
  | writeVerify
  /-- CMD.UNKNOWN, a command byte from 0x03 to 0xFF (R94, R192). -/
  | cmdUnknown (b : Byte)
  /-- NA_GETCMD, the next-action code 0x01 (R95, R144). -/
  | naGetcmd
  /-- NA_READ, the next-action code 0x02 (R95, R145). -/
  | naRead
  /-- NA_WRDATA, the next-action code 0x03 (R95, R146). -/
  | naWrdata
  /-- NA_WRVDATA, the next-action code 0x04 (R95, R147). -/
  | naWrvdata
  /-- NA_PERFORM, the next-action code 0x06 (R95, R149). -/
  | naPerform
  /-- ACK, the acknowledgment byte 0x55 (R96, R166). -/
  | ack
  /-- ACK.MISMATCH, any other byte written in a Handshake state (R96, R167). -/
  | ackMismatch (b : Byte)
  deriving DecidableEq, Repr

/-- The ten events of R90, by name: what a report records (R230) and what moves a line (R92). -/
inductive Event where
  | rstA | rstD | dirR | dirW | stbA | stbD | cmdA | cmdD | rd | wr
  deriving DecidableEq, Repr

/-- The three code spaces that share the data bus, told apart by direction and phase (R93). -/
inductive CodeSpace where
  /-- Command bytes, written in GetCommand (R94). -/
  | command
  /-- Next-action codes, queued by a COMMAND rise (R95). -/
  | nextAction
  /-- Acknowledgment bytes, written in a Handshake state (R96). -/
  | acknowledge
  deriving DecidableEq, Repr

/-- One item of the host's stimulus as it is written down: an EVT word (R91), or one byte code of R93,
which stands for the event that puts that code on the bus (DESIGN CHOICE, log entry 4). -/
inductive Stimulus where
  | event (w : EventWord)
  | code (b : Byte)
  deriving DecidableEq, Repr

/-- The event an instruction is carried by (R90, R143, R127): a command or acknowledgment byte is
written by WR, a next-action code is queued by the COMMAND rise. -/
def Instr.event : Instr → Event
  | .rstA => .rstA
  | .rstD => .rstD
  | .dirR => .dirR
  | .dirW => .dirW
  | .stbA => .stbA
  | .stbD => .stbD
  | .cmdA => .cmdA
  | .cmdD => .cmdD
  | .rd => .rd
  | .wr _ => .wr
  | .read => .wr
  | .write => .wr
  | .writeVerify => .wr
  | .cmdUnknown _ => .wr
  | .naGetcmd => .cmdA
  | .naRead => .cmdA
  | .naWrdata => .cmdA
  | .naWrvdata => .cmdA
  | .naPerform => .cmdA
  | .ack => .wr
  | .ackMismatch _ => .wr

end Sys2Proof
end

