-- ==== Sys2Proof/WellFormed.lean ====
section
/-! DEFINITION. Which terms of `Instr` stand for an encoding of the opcode table: the two catch-all rows
leave out the values of the rows before them (R94, R96, notes of the table). -/

namespace Sys2Proof

/-- A CMD.UNKNOWN byte is none of the three command bytes (R94); an ACK.MISMATCH byte is not 0x55 (R96);
every other instruction is well formed. -/
def Instr.wellFormed : Instr → Bool
  | .cmdUnknown b => b != Config.cmdRead && b != Config.cmdWrite && b != Config.cmdWriteVerify
  | .ackMismatch b => b != Config.ackByte
  | .rstA => true
  | .rstD => true
  | .dirR => true
  | .dirW => true
  | .stbA => true
  | .stbD => true
  | .cmdA => true
  | .cmdD => true
  | .rd => true
  | .wr _ => true
  | .read => true
  | .write => true
  | .writeVerify => true
  | .naGetcmd => true
  | .naRead => true
  | .naWrdata => true
  | .naWrvdata => true
  | .naPerform => true
  | .ack => true

end Sys2Proof
end

