-- ==== Sys2Proof/Decode.lean ====
section
/-! DEFINITION. The decoder of one stimulus item (R91, R93 to R96, R102), the encoder written from the
same tables, and the reading of an opcode-table word that names no phase. -/

namespace Sys2Proof

/-- Why a stimulus item is no instruction (R91, R95, R102). -/
inductive DecodeReject where
  /-- A bit above the 12 of an EVT word is set (R91). -/
  | beyondTwelveBits
  /-- The event code is 0xA to 0xF (R91). -/
  | noSuchEvent
  /-- The data field of an event other than WR is not 0 (R91). -/
  | dataNotZero
  /-- No next action has this code: 0x00, 0x05, 0x07 to 0xFF (R95). -/
  | noSuchNextAction
  /-- A byte code in a phase that belongs to no code space (R93). -/
  | noCodeSpace
  deriving DecidableEq, Repr

/-- The event code `e`, bits 11:8 of an EVT word (R91). -/
def eventField (w : EventWord) : BitVec 4 := w.extractLsb' 8 4

/-- The data byte `d`, bits 7:0 of an EVT word (R91). -/
def dataField (w : EventWord) : Byte := w.extractLsb' 0 8

/-- Bits 15:12 of the two bytes that hold an EVT word; 0 in every event. -/
def aboveField (w : EventWord) : BitVec 4 := w.extractLsb' 12 4

/-- The event whose code is `e` and whose data field is 0: the table of R91, all but WR. -/
def plainEvent (e : BitVec 4) : Option Instr :=
  match e.toNat with
  | 0x0 => some .rstA
  | 0x1 => some .rstD
  | 0x2 => some .dirR
  | 0x3 => some .dirW
  | 0x4 => some .stbA
  | 0x5 => some .stbD
  | 0x6 => some .cmdA
  | 0x7 => some .cmdD
  | 0x8 => some .rd
  | _ => none

/-- An EVT word (R91). -/
def decodeEvent (w : EventWord) : Except DecodeReject Instr :=
  if aboveField w ≠ 0 then .error .beyondTwelveBits
  else if eventField w = 0x9 then .ok (.wr (dataField w))
  else
    match plainEvent (eventField w) with
    | none => .error .noSuchEvent
    | some i => if dataField w = 0 then .ok i else .error .dataNotZero

/-- A command byte (R94). -/
def decodeCommand (b : Byte) : Instr :=
  if b = Config.cmdRead then .read
  else if b = Config.cmdWrite then .write
  else if b = Config.cmdWriteVerify then .writeVerify
  else .cmdUnknown b

/-- A next-action code (R95). -/
def decodeNextAction (b : Byte) : Option Instr :=
  if b = Config.naGetcmd then some .naGetcmd
  else if b = Config.naRead then some .naRead
  else if b = Config.naWrdata then some .naWrdata
  else if b = Config.naWrvdata then some .naWrvdata
  else if b = Config.naPerform then some .naPerform
  else none

/-- An acknowledgment byte (R96). -/
def decodeAcknowledge (b : Byte) : Instr :=
  if b = Config.ackByte then .ack else .ackMismatch b

/-- A byte code, read in a code space (R93: "A decoder must know the phase"). -/
def decodeCode (space : CodeSpace) (b : Byte) : Except DecodeReject Instr :=
  match space with
  | .command => .ok (decodeCommand b)
  | .nextAction =>
    match decodeNextAction b with
    | some i => .ok i
    | none => .error .noSuchNextAction
  | .acknowledge => .ok (decodeAcknowledge b)

/-- The decoder: an EVT word in any phase, a byte code in the code space of the current phase. -/
def decode (space : Option CodeSpace) : Stimulus → Except DecodeReject Instr
  | .event w => decodeEvent w
  | .code b =>
    match space with
    | some sp => decodeCode sp b
    | none => .error .noCodeSpace

/-- The stimulus item that stands for an instruction, from the table of R91 and the codes of R94 to R96. -/
def encode : Instr → Stimulus
  | .rstA => .event 0x000
  | .rstD => .event 0x100
  | .dirR => .event 0x200
  | .dirW => .event 0x300
  | .stbA => .event 0x400
  | .stbD => .event 0x500
  | .cmdA => .event 0x600
  | .cmdD => .event 0x700
  | .rd => .event 0x800
  | .wr b => .event (0x900 + b.zeroExtend 16)
  | .read => .code Config.cmdRead
  | .write => .code Config.cmdWrite
  | .writeVerify => .code Config.cmdWriteVerify
  | .cmdUnknown b => .code b
  | .naGetcmd => .code Config.naGetcmd
  | .naRead => .code Config.naRead
  | .naWrdata => .code Config.naWrdata
  | .naWrvdata => .code Config.naWrvdata
  | .naPerform => .code Config.naPerform
  | .ack => .code Config.ackByte
  | .ackMismatch b => .code b

/-- The code space an instruction belongs to; an event belongs to none (R93). -/
def Instr.codeSpace : Instr → Option CodeSpace
  | .rstA => none
  | .rstD => none
  | .dirR => none
  | .dirW => none
  | .stbA => none
  | .stbD => none
  | .cmdA => none
  | .cmdD => none
  | .rd => none
  | .wr _ => none
  | .read => some .command
  | .write => some .command
  | .writeVerify => some .command
  | .cmdUnknown _ => some .command
  | .naGetcmd => some .nextAction
  | .naRead => some .nextAction
  | .naWrdata => some .nextAction
  | .naWrvdata => some .nextAction
  | .naPerform => some .nextAction
  | .ack => some .acknowledge
  | .ackMismatch _ => some .acknowledge

/-- The code space in which a byte of the opcode table is read when no phase is given: the first row
that names the byte exactly, else the first catch-all row. The three code spaces overlap (R93), so
0x01 reads as WRITE and not NA_GETCMD, 0x02 as WRITEVERIFY and not NA_READ, and a byte no row
names as CMD.UNKNOWN and not ACK.MISMATCH (DESIGN CHOICE, log entry 5). -/
def tableSpace (b : Byte) : CodeSpace :=
  if b = Config.naWrdata ∨ b = Config.naWrvdata ∨ b = Config.naPerform then .nextAction
  else if b = Config.ackByte then .acknowledge
  else .command

/-- The stimulus item of `nbits` bits with the number `w`: one byte is a byte code, two bytes are an
EVT word. -/
def tableStimulus (nbits w : Nat) : Option Stimulus :=
  if nbits ≤ 8 then
    if w < 2 ^ 8 then some (.code (BitVec.ofNat 8 w)) else none
  else if nbits ≤ 16 then
    if w < 2 ^ 16 then some (.event (BitVec.ofNat 16 w)) else none
  else none

/-- What the decoder reads from a word of the opcode table. -/
def decodeTableWord (nbits w : Nat) : Option Instr :=
  match tableStimulus nbits w with
  | none => none
  | some st =>
    let space := match st with
      | .code b => some (tableSpace b)
      | .event _ => none
    match decode space st with
    | .ok i => some i
    | .error _ => none

end Sys2Proof
end

