-- ==== Sys2Proof/Machine/State.lean ====
section
/-! DEFINITION. The state of the sequencer (R20), the BlockStore's state beside it (R62), the outputs of
its events (R9), the reasons a step can stop, and the state at power-on (R43, R262). -/

namespace Sys2Proof.Machine

/-- TransactionState TS: exactly the 26 values of R22. -/
inductive TransactionState where
  | awaitingCommand
  | startTransaction
  | handshakeTransaction
  | finishHandshake
  | getCommand
  | getAddress
  | getReadRetryCount
  | getReadSparingThreshold
  | awaitingReadGoahead
  | startReadTransaction
  | handshakeReadTransaction
  | finishReadHandshake
  | handleReadStatus
  | handleReadData
  | awaitingWriteGoahead
  | awaitingWriteVerifyGoahead
  | startWriteTransaction
  | startWriteVerifyTransaction
  | handshakeWriteTransaction
  | finishWriteHandshake
  | getWrittenData
  | awaitingStatusGoahead
  | startStatusTransaction
  | handshakeStatusTransaction
  | finishStatusHandshake
  | handleWriteStatus
  deriving DecidableEq, Repr

/-- ByteState BS: exactly the five values of R23. -/
inductive ByteState where
  | idle
  | hostWillRead
  | hostDidRead
  | hostWillWrite
  | hostDidWrite
  deriving DecidableEq, Repr

/-- ByteDirection DIR: level 1 is `hostRead`, level 0 is `hostWrite` (R24). -/
inductive ByteDirection where
  | hostWrite
  | hostRead
  deriving DecidableEq, Repr

/-- ERR, the code of the first error since RESET, 0 to 5 in this order (R34, R230). -/
inductive ErrCode where
  | noError
  | byteOrderViolation
  | transactionOrderViolation
  | ackMismatch
  | outboundUnderrun
  | unknownCommand
  deriving DecidableEq, Repr

/-- A report of an error with the info R230 records. -/
inductive Report where
  /-- Code 1: the event, BS and TS. -/
  | byteOrderViolation (event : Event) (bs : ByteState) (ts : TransactionState)
  /-- Code 2: the event, TS, and the byte of a WR. -/
  | transactionOrderViolation (event : Event) (ts : TransactionState) (byte : Option Byte)
  /-- Code 3: the byte and TS. -/
  | ackMismatch (byte : Byte) (ts : TransactionState)
  /-- Code 4: TS. -/
  | outboundUnderrun (ts : TransactionState)
  /-- Code 5: CMDB. -/
  | unknownCommand (cmdb : Byte)
  deriving DecidableEq, Repr

/-- One output of an event (R9). -/
inductive Output where
  /-- The byte a host read returns. -/
  | busByte (v : Byte)
  /-- The BUSY line changed to this level. -/
  | busy (level : Bool)
  /-- An error was reported. -/
  | report (r : Report)
  /-- A `read` call on the BlockStore. -/
  | storeRead (addr : BlockAddr)
  /-- A `write` call on the BlockStore. -/
  | storeWrite (addr : BlockAddr) (blk : Block)
  deriving DecidableEq, Repr

/-- The contents of a BlockStore as (byte address, byte) pairs; byte `i` of block `a` has the byte address
532 * a + i (log entry 6). Its canonical form is `Memory.wf` of Machine/Memory.lean. -/
abbrev Memory := List Host.Cell

/-- sigma, the state of the BlockStore (R62), for each backend a platform may wire (P_BLOCKSTORE, R7). -/
inductive BlockStore where
  /-- The default of R63: reads give `i mod 256`, writes are discarded; it has one state. -/
  | pattern
  /-- The faithful disk of R64, with its contents. -/
  | disk (cells : Memory)
  /-- Any other backend (R62), in the state of this number; its two functions are `Config.bsRead` and
  `Config.bsWrite`. -/
  | external (sigma : Nat)
  deriving DecidableEq, Repr

/-- The registers of R20, sigma (R62), and four fields of the model's own: the host's stimulus, the
outputs, the byte the host's last read returned, and the counter of the free draws. -/
structure State where
  /-- TS, TransactionState (R22). -/
  ts : TransactionState
  /-- BS, ByteState (R23). -/
  bs : ByteState
  /-- DIR, ByteDirection (R24). -/
  dir : ByteDirection
  /-- CMDV, set while a command is in flight (R25). -/
  cmdv : Bool
  /-- CMDB, the command byte as received (R25). -/
  cmdb : Byte
  /-- ADDR, the block-address accumulator (R26). -/
  addr : BlockAddr
  /-- ACNT, the number of address bytes accumulated, 0 to 3 (R27). -/
  acnt : Fin 4
  /-- RETRY, the retry-count byte (R28). -/
  retry : Byte
  /-- SPARE, the sparing-threshold byte (R28). -/
  spare : Byte
  /-- BUF, the block buffer (R30). -/
  buf : Block
  /-- WCNT, the number of written bytes collected, 0 to 532 (R31). -/
  wcnt : Fin 533
  /-- OQ, the outbound byte queue, head first (R32). -/
  oq : List Byte
  /-- BUSY, the level the device drives (R33). -/
  busy : Bool
  /-- ERR, the first error since RESET (R34). -/
  err : ErrCode
  /-- HALT, set by a fatal error (R35). -/
  halt : Bool
  /-- LN.RESET, the level last driven on RESET (R36). -/
  lnReset : Bool
  /-- LN.STROBE, the level last driven on STROBE (R36). -/
  lnStrobe : Bool
  /-- LN.CMD, the level last driven on COMMAND (R36). -/
  lnCmd : Bool
  /-- sigma, the BlockStore's state (R62). -/
  sigma : BlockStore
  /-- MODEL'S OWN: the host's stimulus, next item first (log entry 1). -/
  stim : List Stimulus
  /-- MODEL'S OWN: every output since power-on, oldest first (R9, log entry 3). -/
  outputs : List Output
  /-- MODEL'S OWN: the byte the host's last RD returned (R126, U3, U4; log entry 2). -/
  rdByte : Byte
  /-- MODEL'S OWN: how many free values have been drawn (log entry 2). -/
  draws : Nat
  deriving DecidableEq, Repr

/-- Why the machine stops inside an event. -/
inductive Fault where
  /-- Raised by WR in GetAddress when ACNT is already 3: R42(b) says no run reaches it, and R191 and R192
  give it no rule (the `stuck` of 93). Safe. -/
  | addressCountOverrun
  deriving DecidableEq, Repr

/-- Why the model takes no step for a stimulus. -/
inductive Refusal where
  /-- An instruction exec has no meaning for yet. Safe. -/
  | notModelled (mnemonic : String)
  /-- Raised by every event whose stimulus is ill formed: an edge that does not change its line, or
  anything but RST.D while RESET is asserted (R92, R263, I11). Safe. -/
  | illFormedStimulus (event : Event)
  /-- Raised by step for a stimulus item that is no instruction in the current phase (R91, R93, V6). Safe. -/
  | notAnInstruction (why : DecodeReject)
  /-- Raised by a next-action instruction in a phase whose COMMAND rise queues another code (R142): the
  device never emits this code there (R95, log entry 8). Safe. -/
  | codeNotInPhase (code : Byte)
  deriving DecidableEq, Repr

/-- The state at power-on (R43, R262) with a given DIRECTION level (P_DIR0), levels of RESET, STROBE and
COMMAND (P_LN0) and BlockStore (sigma0). BUF is unspecified there; the model names zero (log entry 10). -/
def State.powerOn (dir0 : ByteDirection) (reset0 strobe0 cmd0 : Bool) (sigma0 : BlockStore) : State where
  ts := .awaitingCommand
  bs := .idle
  dir := dir0
  cmdv := false
  cmdb := 0
  addr := 0
  acnt := 0
  retry := 0
  spare := 0
  buf := Vector.replicate 532 0
  wcnt := 0
  oq := []
  busy := false
  err := .noError
  halt := false
  lnReset := reset0
  lnStrobe := strobe0
  lnCmd := cmd0
  sigma := sigma0
  stim := []
  outputs := []
  rdByte := 0
  draws := 0

/-- The machine right after power-on: P_LN0 = 0, 0, 0 and the default BlockStore (R7); P_DIR0 is OPEN and
the model names HostWrite, as the spec's vectors do (log entry 10). -/
def State.reset : State := State.powerOn .hostWrite false false false .pattern

end Sys2Proof.Machine
end

