-- ==== Sys2Proof/Machine/Memory.lean ====
section
/-! DEFINITION. The BlockStore as memory (R60 to R69): byte cells in canonical form, whole-block reads and
writes of each backend, the metadata block and its fields (R214, R215). -/

namespace Sys2Proof.Machine

/-- The block whose byte `i` is `f i`. -/
def blockOf (f : Nat → Byte) : Block := ⟨((List.range 532).map f).toArray, by simp⟩

/-- The number of byte cells: 2^24 blocks of 532 bytes (R60). -/
abbrev memoryBytes : Nat := 2 ^ 24 * 532

/-- The byte address of byte `i` of a block (log entry 6). -/
def byteAddr (addr : BlockAddr) (i : Nat) : Nat := addr.toNat * 532 + i

/-- What a byte address nothing is listed for reads as: the repeating 0..255 pattern of R63, which starts
at 0 in every block (log entry 6). -/
def unlistedByte (a : Nat) : Byte := BitVec.ofNat 8 (a % 532)

/-- One byte. -/
def memGet : Memory → Nat → Byte
  | [], a => unlistedByte a
  | (k, v) :: m, a => if k = a then v else memGet m a

/-- One byte written, keeping the canonical form: the cells stay in rising order, and writing what an
unlisted address reads as removes the cell. -/
def memSet : Memory → Nat → Byte → Memory
  | [], a, b => if b = unlistedByte a then [] else [(a, b)]
  | (k, v) :: m, a, b =>
    if a < k then (if b = unlistedByte a then (k, v) :: m else (a, b) :: (k, v) :: m)
    else if a = k then (if b = unlistedByte a then m else (a, b) :: m)
    else (k, v) :: memSet m a b

/-- The canonical form: addresses strictly rising, no cell equal to what an unlisted address reads as, all
inside the address space. -/
abbrev Memory.wf (m : Memory) : Prop :=
  m.Pairwise (fun c d => c.1 < d.1) ∧ ∀ c ∈ m, c.2 ≠ unlistedByte c.1 ∧ c.1 < memoryBytes

/-- A whole block read (R64, R69). -/
def memReadBlock (m : Memory) (addr : BlockAddr) : Block := blockOf fun i => memGet m (byteAddr addr i)

/-- The first `n` bytes of a block written, from the last down to byte 0. -/
def memWriteBytes (m : Memory) (addr : BlockAddr) (blk : Block) : Nat → Memory
  | 0 => m
  | n + 1 => memWriteBytes (memSet m (byteAddr addr n) (blk.getD n 0)) addr blk n

/-- A whole block written (R64, R69). -/
def memWriteBlock (m : Memory) (addr : BlockAddr) (blk : Block) : Memory :=
  memWriteBytes m addr blk 532

/-- The default pattern block (R63). -/
def patternBlock : Block := blockOf fun i => BitVec.ofNat 8 i

/-- `bs_read` of each backend (R62 to R64). -/
def storeRead (sigma : BlockStore) (addr : BlockAddr) : Block :=
  match sigma with
  | .pattern => patternBlock
  | .disk m => memReadBlock m addr
  | .external n => blockOf (Config.bsRead n addr)

/-- `bs_write` of each backend (R62 to R64). -/
def storeWrite (sigma : BlockStore) (addr : BlockAddr) (blk : Block) : BlockStore :=
  match sigma with
  | .pattern => .pattern
  | .disk m => .disk (memWriteBlock m addr blk)
  | .external n => .external (Config.bsWrite n addr blk)

/-- The canonical form of the BlockStore's contents. -/
abbrev BlockStore.wf : BlockStore → Prop
  | .pattern => True
  | .disk m => Memory.wf m
  | .external _ => True

/-- The model's read of one byte of the address space: byte `i` of what the BlockStore answers for a block
address. -/
def storeByte (sigma : BlockStore) (addr : BlockAddr) (i : Fin 532) : Byte := (storeRead sigma addr)[i]

/-- The two reserved block addresses (R61, R66). -/
def isReserved (addr : BlockAddr) : Bool := addr == Config.metaAddrLo || addr == Config.metaAddrHi

/-- Where a field of the metadata block stands. -/
structure MetaPlace where
  first : Nat
  width : Nat
  deriving DecidableEq, Repr

/-- Byte `i` of the block belongs to the place. -/
def MetaPlace.holds (p : MetaPlace) (i : Nat) : Bool := p.first ≤ i && i < p.first + p.width

/-- What R215 says of the places: the fields come after the 13-byte name, in the source's order, none
empty, inside the 532 bytes; the two numbers it names fit their fields (log entry 15). -/
abbrev metaInOrder (p : Config.MetaField → MetaPlace) : Prop :=
  (13 ≤ (p .deviceNumber).first ∧ 0 < (p .deviceNumber).width) ∧
  ((p .deviceNumber).first + (p .deviceNumber).width ≤ (p .firmwareRevision).first ∧
    0 < (p .firmwareRevision).width) ∧
  ((p .firmwareRevision).first + (p .firmwareRevision).width ≤ (p .blockCount).first ∧
    Config.capacity < 256 ^ (p .blockCount).width) ∧
  ((p .blockCount).first + (p .blockCount).width ≤ (p .bytesPerBlock).first ∧
    Config.blockSize < 256 ^ (p .bytesPerBlock).width) ∧
  ((p .bytesPerBlock).first + (p .bytesPerBlock).width ≤ (p .spareSectorCount).first ∧
    0 < (p .spareSectorCount).width) ∧
  ((p .spareSectorCount).first + (p .spareSectorCount).width ≤ (p .badBlockList).first ∧
    0 < (p .badBlockList).width) ∧
  (p .badBlockList).first + (p .badBlockList).width ≤ 532

/-- The places that R215 suggests from general knowledge. They only witness that places in order exist:
whether they are the block's is open (log entry 9). -/
def suggestedPlace : Config.MetaField → MetaPlace
  | .deviceNumber => ⟨13, 3⟩
  | .firmwareRevision => ⟨16, 2⟩
  | .blockCount => ⟨18, 3⟩
  | .bytesPerBlock => ⟨21, 2⟩
  | .spareSectorCount => ⟨23, 1⟩
  | .badBlockList => ⟨26, 506⟩

/-- The places the configuration names. -/
def configuredPlace (f : Config.MetaField) : MetaPlace := ⟨Config.metaFirst f, Config.metaWidth f⟩

/-- The places of the fields: any that R215 allows, and no others. -/
def metaPlace (f : Config.MetaField) : MetaPlace :=
  if metaInOrder configuredPlace then configuredPlace f else suggestedPlace f

/-- Byte `k` of a number stored in `width` bytes, in the byte order of the metadata block. -/
def numberByte (n width k : Nat) : Byte :=
  BitVec.ofNat 8 (n / 256 ^ (if Config.metaBigEndian then width - 1 - k else k))

/-- Byte `i` of the metadata block inside a field (R215): the block count is P_CAPACITY, the bytes per
block are 532, the list is all 0xFF (no bad blocks), and the other fields are open. -/
def metaFieldByte (f : Config.MetaField) (i : Nat) : Byte :=
  match f with
  | .blockCount => numberByte Config.capacity (metaPlace f).width (i - (metaPlace f).first)
  | .bytesPerBlock => numberByte Config.blockSize (metaPlace f).width (i - (metaPlace f).first)
  | .badBlockList => 0xFF
  | .deviceNumber => Config.metaByte i
  | .firmwareRevision => Config.metaByte i
  | .spareSectorCount => Config.metaByte i

/-- The field that byte `i` of the metadata block belongs to; none for the name and the bytes between. -/
def metaFieldAt (i : Nat) : Option Config.MetaField :=
  [.deviceNumber, .firmwareRevision, .blockCount, .bytesPerBlock, .spareSectorCount, .badBlockList].find?
    fun f => (metaPlace f).holds i

/-- P_META, the metadata block: the 13-byte name, then the fields R215 names (R214, R215). -/
def metaBlock : Block := blockOf fun i =>
  if i < 13 then Config.deviceName.getD i 0
  else
    match metaFieldAt i with
    | some f => metaFieldByte f i
    | none => Config.metaByte i

/-- The ranges of the address map (R61). -/
inductive Region where
  /-- Below P_CAPACITY. -/
  | userData
  /-- At or above P_CAPACITY and not reserved. -/
  | beyondCapacity
  /-- The metadata addresses. -/
  | reserved
  deriving DecidableEq, Repr

/-- The range of an address (R61). Only `reserved` changes what the sequencer does (R68, R72). -/
def region (addr : BlockAddr) : Region :=
  if isReserved addr then .reserved
  else if addr.toNat < Config.capacity then .userData
  else .beyondCapacity

/-- `MemRead(addr, 532)`, the block: the metadata block for a reserved address, else the BlockStore's
answer (R66). -/
def fetchedBlock (addr : BlockAddr) (s : State) : Block :=
  if isReserved addr then metaBlock else storeRead s.sigma addr

/-- `MemRead(addr, 532)`, the output: none for a reserved address (R66). -/
def fetchNotice (addr : BlockAddr) : List Output :=
  if isReserved addr then [] else [.storeRead addr]

/-- `MemWrite(addr, 532, blk)`, the output: none for a reserved address (R67). -/
def writeNotice (addr : BlockAddr) (blk : Block) : List Output :=
  if isReserved addr then [] else [.storeWrite addr blk]

/-- `MemWrite(addr, 532, blk)`: a write to a reserved address is dropped (R67). -/
def memWrite (addr : BlockAddr) (blk : Block) (s : State) : State :=
  { s with
    outputs := s.outputs ++ writeNotice addr blk
    sigma := if isReserved addr then s.sigma else storeWrite s.sigma addr blk }

end Sys2Proof.Machine
end

