-- ==== Sys2Proof/Machine/Flags.lean ====
section
/-! DEFINITION. The flags: BUSY and its notification (R33), the codes and classes of errors (R230), and the
flags of the status word (R210 to R213). -/

namespace Sys2Proof.Machine

/-- The notification of a write of BUSY: one only when the level changes (R33). -/
def busyNotice (level : Bool) (s : State) : List Output :=
  if s.busy = level then [] else [.busy level]

/-- `busy(l)`: BUSY written, with its notification (R33). -/
def setBusy (level : Bool) (s : State) : State :=
  { s with busy := level, outputs := s.outputs ++ busyNotice level s }

/-- The code of a report (R230). -/
def reportCode : Report → ErrCode
  | .byteOrderViolation _ _ _ => .byteOrderViolation
  | .transactionOrderViolation _ _ _ => .transactionOrderViolation
  | .ackMismatch _ _ => .ackMismatch
  | .outboundUnderrun _ => .outboundUnderrun
  | .unknownCommand _ => .unknownCommand

/-- The class of a report: every error but AckMismatch is fatal (R230). -/
def reportFatal : Report → Bool
  | .ackMismatch _ _ => false
  | .byteOrderViolation _ _ _ => true
  | .transactionOrderViolation _ _ _ => true
  | .outboundUnderrun _ => true
  | .unknownCommand _ => true

/-- ERR after an error: the first code since RESET stays (R34, R236). -/
def latchError (old new : ErrCode) : ErrCode := if old = .noError then new else old

/-- The 17 flags of the status word, in the source's order (R211 to R213). -/
inductive StatusFlag where
  | noAcknowledge
  | writeAbort
  | dataFlushed
  | seekError
  | crcError
  | timeout
  | operationFailed
  | seekErrorRetry
  | spareTableOverflow
  | badBlockOverflow
  | sectorReadError
  | spareUsed
  | wrongTrack
  | resetFlags
  | invalidBlock
  | blockIdMismatch
  | parityError
  deriving DecidableEq, Repr

/-- The place of a flag in the source's list. -/
def flagIndex : StatusFlag → Fin 17
  | .noAcknowledge => 0
  | .writeAbort => 1
  | .dataFlushed => 2
  | .seekError => 3
  | .crcError => 4
  | .timeout => 5
  | .operationFailed => 6
  | .seekErrorRetry => 7
  | .spareTableOverflow => 8
  | .badBlockOverflow => 9
  | .sectorReadError => 10
  | .spareUsed => 11
  | .wrongTrack => 12
  | .resetFlags => 13
  | .invalidBlock => 14
  | .blockIdMismatch => 15
  | .parityError => 16

/-- The byte of the status word a flag is in: seven in S0, six in S1, four in S2 (R211 to R213). -/
def flagByte (f : StatusFlag) : Fin 4 :=
  if (flagIndex f).val < 7 then 0 else if (flagIndex f).val < 13 then 1 else 2

/-- The value of a flag in a status word, at the bit position P_STATUS_BITPOS gives it (R211). -/
def flagValue (w : StatusWord) (f : StatusFlag) : Bool :=
  (w[flagByte f]).getLsbD (Config.statusBitPos (flagIndex f)).val

/-- S3, the read-error-retry count (R213). -/
def readErrorRetryCount (w : StatusWord) : Byte := w[3]

/-- `status()`: the status word, built when it is queued (R210, R216). -/
def statusWord : StatusWord := Config.statusWord

end Sys2Proof.Machine
end

