-- ==== Sys2Proof/Machine/Phases.lean ====
section
/-! DEFINITION. What the phase registers say: the numbers of R22, R23 and R230, the groups of phases, the
handshakes of R142, and the code space of a phase (R93). -/

namespace Sys2Proof.Machine

/-- The number R22 gives a TransactionState. -/
def tsNumber : TransactionState → Nat
  | .awaitingCommand => 0
  | .startTransaction => 1
  | .handshakeTransaction => 2
  | .finishHandshake => 3
  | .getCommand => 4
  | .getAddress => 5
  | .getReadRetryCount => 6
  | .getReadSparingThreshold => 7
  | .awaitingReadGoahead => 8
  | .startReadTransaction => 9
  | .handshakeReadTransaction => 10
  | .finishReadHandshake => 11
  | .handleReadStatus => 12
  | .handleReadData => 13
  | .awaitingWriteGoahead => 14
  | .awaitingWriteVerifyGoahead => 15
  | .startWriteTransaction => 16
  | .startWriteVerifyTransaction => 17
  | .handshakeWriteTransaction => 18
  | .finishWriteHandshake => 19
  | .getWrittenData => 20
  | .awaitingStatusGoahead => 21
  | .startStatusTransaction => 22
  | .handshakeStatusTransaction => 23
  | .finishStatusHandshake => 24
  | .handleWriteStatus => 25

/-- The number R23 gives a ByteState. -/
def bsNumber : ByteState → Nat
  | .idle => 0
  | .hostWillRead => 1
  | .hostDidRead => 2
  | .hostWillWrite => 3
  | .hostDidWrite => 4

/-- The code R230 gives an error; 0 is none (R34). -/
def errNumber : ErrCode → BitVec 3
  | .noError => 0
  | .byteOrderViolation => 1
  | .transactionOrderViolation => 2
  | .ackMismatch => 3
  | .outboundUnderrun => 4
  | .unknownCommand => 5

/-- The Handshake state that the host's read of the next-action byte leads to, for a Start state (R161);
none for any other state. -/
def handshakeAfterStart : TransactionState → Option TransactionState
  | .startTransaction => some .handshakeTransaction
  | .startReadTransaction => some .handshakeReadTransaction
  | .startWriteTransaction => some .handshakeWriteTransaction
  | .startWriteVerifyTransaction => some .handshakeWriteTransaction
  | .startStatusTransaction => some .handshakeStatusTransaction
  | _ => none

/-- The Finish state that the acknowledgment leads to, for a Handshake state (R166); none for any other
state. -/
def finishAfterHandshake : TransactionState → Option TransactionState
  | .handshakeTransaction => some .finishHandshake
  | .handshakeReadTransaction => some .finishReadHandshake
  | .handshakeWriteTransaction => some .finishWriteHandshake
  | .handshakeStatusTransaction => some .finishStatusHandshake
  | _ => none

/-- The next-action code that a COMMAND rise queues and the Start state it enters (R142, R144 to R149,
R152); none where the rise is illegal (R153). -/
def riseTarget : TransactionState → Option (Byte × TransactionState)
  | .awaitingCommand => some (Config.naGetcmd, .startTransaction)
  | .awaitingReadGoahead => some (Config.naRead, .startReadTransaction)
  | .awaitingWriteGoahead => some (Config.naWrdata, .startWriteTransaction)
  | .awaitingWriteVerifyGoahead => some (Config.naWrvdata, .startWriteVerifyTransaction)
  | .handleReadData => some (Config.naGetcmd, .startTransaction)
  | .getWrittenData => some (Config.naPerform, .startStatusTransaction)
  | .awaitingStatusGoahead => some (Config.naPerform, .startStatusTransaction)
  | _ => none

/-- The states in which a written byte is consumed (R127, R168). -/
def consumesByte : TransactionState → Bool
  | .getCommand => true
  | .getAddress => true
  | .getReadRetryCount => true
  | .getReadSparingThreshold => true
  | .getWrittenData => true
  | ts => (finishAfterHandshake ts).isSome

/-- The Start, Handshake and Finish states: those in which BUSY is 1 (R42(d), R171). -/
def inHandshake : TransactionState → Bool
  | .finishHandshake => true
  | .finishReadHandshake => true
  | .finishWriteHandshake => true
  | .finishStatusHandshake => true
  | ts => (handshakeAfterStart ts).isSome || (finishAfterHandshake ts).isSome

/-- The code space a byte code is read in, in each phase (R93 to R96): command bytes in GetCommand,
acknowledgments in the Handshake states, next-action codes where a COMMAND rise queues one. -/
def codeSpaceOf (ts : TransactionState) : Option CodeSpace :=
  if ts = .getCommand then some .command
  else if (finishAfterHandshake ts).isSome then some .acknowledge
  else if (riseTarget ts).isSome then some .nextAction
  else none

end Sys2Proof.Machine
end

