-- ==== Sys2Proof/Machine/Operands.lean ====
section
/-! DEFINITION. The operands: the address assembled from three bytes (R65, R98, R191), the decoded command
(R25), the block a write hands to the store (R149, R197). -/

namespace Sys2Proof.Machine

/-- The address accumulate `((ADDR << 8) | zext_24(b))[23:0]` (R191, R199). -/
def accumulateAddress (addr : BlockAddr) (b : Byte) : BlockAddr := (addr <<< 8) ||| b.zeroExtend 24

/-- The source's Command, with the opaque unknown command of §4.3 (R25). -/
inductive Command where
  | none
  | read
  | write
  | writeVerify
  | unknown (b : Byte)
  deriving DecidableEq, Repr

/-- The decoded command (R25). -/
def decodedCommand (cmdv : Bool) (cmdb : Byte) : Command :=
  if !cmdv then .none
  else if cmdb = Config.cmdRead then .read
  else if cmdb = Config.cmdWrite then .write
  else if cmdb = Config.cmdWriteVerify then .writeVerify
  else .unknown cmdb

/-- The state the third address byte leads to; none for an unknown command (R192). -/
def afterAddress (cmdb : Byte) : Option TransactionState :=
  if cmdb = Config.cmdRead then some .getReadRetryCount
  else if cmdb = Config.cmdWrite then some .awaitingWriteGoahead
  else if cmdb = Config.cmdWriteVerify then some .awaitingWriteVerifyGoahead
  else none

end Sys2Proof.Machine
end

