-- ==== Sys2Proof/Machine/Ops.lean ====
section
/-! DEFINITION. The shared operations: well-formed stimulus and line levels (R92), taking an error (R236,
R237) and coming back from one (R167, R260), the queue (R32), the COMMAND edges (R143 to R160), the bus
accesses (R126, R127) and what a byte does (R161 to R169, R190 to R197). -/

namespace Sys2Proof.Machine

/-! ### Stimulus, lines, halt -/

/-- Well-formed stimulus: an edge changes its line, and while RESET is asserted only RST.D comes (R92). -/
def wellFormedStimulus (e : Event) (s : State) : Bool :=
  match e with
  | .rstA => !s.lnReset
  | .rstD => s.lnReset
  | .stbA => !s.lnReset && !s.lnStrobe
  | .stbD => !s.lnReset && s.lnStrobe
  | .cmdA => !s.lnReset && !s.lnCmd
  | .cmdD => !s.lnReset && s.lnCmd
  | .dirR => !s.lnReset
  | .dirW => !s.lnReset
  | .rd => !s.lnReset
  | .wr => !s.lnReset

/-- The line levels after an event: an edge sets its LN bit, halted or not (R36, R92). -/
def driveLine (e : Event) (s : State) : State :=
  match e with
  | .rstA => { s with lnReset := true }
  | .rstD => { s with lnReset := false }
  | .stbA => { s with lnStrobe := true }
  | .stbD => { s with lnStrobe := false }
  | .cmdA => { s with lnCmd := true }
  | .cmdD => { s with lnCmd := false }
  | .dirR => s
  | .dirW => s
  | .rd => s
  | .wr => s

/-- Checks (1) and (2) of R241: ill-formed stimulus is refused, otherwise the line moves and the event
goes on. -/
def accept (e : Event) (s : State) (k : State → Host.Outcome State Fault Refusal) :
    Host.Outcome State Fault Refusal :=
  if wellFormedStimulus e s then k (driveLine e s) else .refused (.illFormedStimulus e)

/-- Check (3) of R241: while HALT is set the event changes no register and emits nothing (R239). -/
def unlessHalted (s : State) (k : State → Host.Outcome State Fault Refusal) :
    Host.Outcome State Fault Refusal :=
  if s.halt then .next s else k s

/-! ### Errors -/

/-- `raise E(info)`, the one operation that takes an error: a report, ERR latched, and HALT for a fatal
one; nothing else is written (R236, R237). -/
def raise (r : Report) (s : State) : State :=
  { s with
    outputs := s.outputs ++ [.report r]
    err := latchError s.err (reportCode r)
    halt := s.halt || reportFatal r }

/-- `enterAwaitingCommand()` (R141). -/
def enterAwaitingCommand (s : State) : State := { s with ts := .awaitingCommand, cmdv := false }

/-- `clear(OQ)`. -/
def clearQueue (s : State) : State := { s with oq := [] }

/-- `push(OQ, seq)`. -/
def pushQueue (bytes : List Byte) (s : State) : State := { s with oq := s.oq ++ bytes }

/-- The acknowledgment mismatch: reported, and the transaction aborted (R167). The sequencer is back in
AwaitingCommand: there is nothing else to return from (R240). -/
def ackMismatchAbort (b : Byte) (s : State) : State :=
  enterAwaitingCommand (setBusy false (clearQueue (raise (.ackMismatch b s.ts) s)))

/-- A block of unspecified bytes: the draw with the number of the draw counter. -/
def freeBlock (draw : Nat) : Block := blockOf (Config.freeByte draw)

/-- RST.A's re-initialisation, the one way back from a fatal error (R240, R260); BUF becomes unspecified
(U1). DIR, LN.STROBE, LN.CMD and sigma are not written. -/
def resetDevice (s : State) : State :=
  { setBusy false s with
    ts := .awaitingCommand
    bs := .idle
    cmdv := false
    cmdb := 0
    addr := 0
    acnt := 0
    retry := 0
    spare := 0
    wcnt := 0
    oq := []
    err := .noError
    halt := false
    buf := freeBlock s.draws
    draws := s.draws + 1 }

/-! ### The COMMAND edges -/

/-- What every legal COMMAND rise does: the next-action code queued, BUSY asserted, a Start state entered
(R143). -/
def beginHandshake (code : Byte) (start : TransactionState) (s : State) : State :=
  { setBusy true (pushQueue [code] s) with ts := start }

/-- The block a write hands to the store: the bytes collected, then unspecified bytes (R149, R197, U2). -/
def collectedBlock (s : State) : Block :=
  blockOf fun i => if i < s.wcnt.val then s.buf.getD i 0 else Config.freeByte s.draws i

/-- The store of a write transaction (R149, R198), up to the transient state. BUF holds the block stored. -/
def storeCollected (s : State) : State :=
  { memWrite s.addr (collectedBlock s) s with
    buf := collectedBlock s
    draws := s.draws + 1
    ts := .awaitingStatusGoahead }

/-- CMD.A: the rising edge of COMMAND (R143). BS is not consulted (R172). -/
def commandRise (s : State) : Host.Outcome State Fault Refusal :=
  accept .cmdA s fun s => unlessHalted s fun s =>
    match s.ts with
    | .awaitingCommand => .next (beginHandshake Config.naGetcmd .startTransaction s)
    | .awaitingReadGoahead => .next (beginHandshake Config.naRead .startReadTransaction s)
    | .awaitingWriteGoahead => .next (beginHandshake Config.naWrdata .startWriteTransaction s)
    | .awaitingWriteVerifyGoahead =>
      .next (beginHandshake Config.naWrvdata .startWriteVerifyTransaction s)
    | .handleReadData =>
      .next (beginHandshake Config.naGetcmd .startTransaction (enterAwaitingCommand (clearQueue s)))
    | .getWrittenData =>
      .next (beginHandshake Config.naPerform .startStatusTransaction (storeCollected s))
    | .awaitingStatusGoahead => .next (beginHandshake Config.naPerform .startStatusTransaction s)
    | ts => .next (raise (.transactionOrderViolation .cmdA ts none) s)

/-- A next-action instruction: the COMMAND rise that queues its code. The phase chooses the code (R142),
so where the rise queues another one this instruction is not what happens: refused (R95, log entry 8). -/
def issueNextAction (code : Byte) (s : State) : Host.Outcome State Fault Refusal :=
  match riseTarget s.ts with
  | some (c, _) => if c = code ∨ s.halt then commandRise s else .refused (.codeNotInPhase code)
  | none => commandRise s

/-- CMD.D: the falling edge of COMMAND (R154). BS is not consulted (R172). -/
def commandFall (s : State) : Host.Outcome State Fault Refusal :=
  accept .cmdD s fun s => unlessHalted s fun s =>
    match s.ts with
    | .awaitingCommand => .next (setBusy false s)
    | .finishHandshake => .next { setBusy false s with ts := .getCommand }
    | .finishReadHandshake =>
      .next { setBusy false (pushQueue (statusWord.toList ++ s.buf.toList) s) with ts := .handleReadStatus }
    | .finishWriteHandshake => .next { setBusy false { s with wcnt := 0 } with ts := .getWrittenData }
    | .finishStatusHandshake =>
      .next { setBusy false (pushQueue statusWord.toList s) with ts := .handleWriteStatus }
    | ts => .next (raise (.transactionOrderViolation .cmdD ts none) s)

/-! ### The bus accesses -/

/-- An RD that returns an unspecified byte (U3, U4). -/
def readUnspecified (s : State) : State :=
  { s with rdByte := Config.freeByte s.draws 0, draws := s.draws + 1 }

/-- `readNotify()`: what a delivered byte does to TS, after the pop (R161 to R164). In any other state
there is no case (R165). -/
def readNotify (s : State) : State :=
  match s.ts with
  | .handleReadStatus => if s.oq.length = 532 then { s with ts := .handleReadData } else s
  | .handleReadData => if s.oq.length = 0 then enterAwaitingCommand s else s
  | .handleWriteStatus => if s.oq.length = 0 then enterAwaitingCommand s else s
  | ts =>
    match handshakeAfterStart ts with
    | some next => { s with ts := next }
    | none => s

/-- RD: the host reads the data bus (R126). -/
def hostRead (s : State) : Host.Outcome State Fault Refusal :=
  accept .rd s fun s =>
    if s.halt then .next (readUnspecified s)
    else if s.bs ≠ .hostWillRead then
      .next (readUnspecified (raise (.byteOrderViolation .rd s.bs s.ts) s))
    else
      match s.oq with
      | [] => .next (readUnspecified (raise (.outboundUnderrun s.ts) s))
      | v :: rest =>
        .next (readNotify { s with
          oq := rest
          bs := .hostDidRead
          rdByte := v
          outputs := s.outputs ++ [.busByte v] })

/-- A command byte (R190). -/
def takeCommand (b : Byte) (s : State) : State :=
  { s with cmdb := b, cmdv := true, addr := 0, acnt := 0, ts := .getAddress }

/-- An address byte: the first two (R191), the third (R192). An unknown command never comes here with two
bytes accumulated: `hostWrite` raises first. -/
def takeAddressByte (b : Byte) (s : State) : Host.Outcome State Fault Refusal :=
  if s.acnt = 2 then
    match afterAddress s.cmdb with
    | some ts => .next { s with addr := accumulateAddress s.addr b, acnt := 3, ts := ts }
    | none => .next (raise (.unknownCommand s.cmdb) s)
  else if s.acnt = 3 then .fault .addressCountOverrun
  else .next { s with addr := accumulateAddress s.addr b, acnt := s.acnt + 1 }

/-- The retry-count byte (R193). -/
def takeRetryCount (b : Byte) (s : State) : State :=
  { s with retry := b, ts := .getReadSparingThreshold }

/-- The sparing-threshold byte and the block fetch (R194). -/
def takeSparingThreshold (b : Byte) (s : State) : State :=
  { s with
    spare := b
    buf := fetchedBlock s.addr s
    outputs := s.outputs ++ fetchNotice s.addr
    ts := .awaitingReadGoahead }

/-- A data byte: collected (R195), or discarded when 532 have been collected (R196). -/
def takeDataByte (b : Byte) (s : State) : State :=
  if h : s.wcnt.val < 532 then
    { s with buf := s.buf.set s.wcnt.val b h, wcnt := ⟨s.wcnt.val + 1, by omega⟩ }
  else s

/-- A byte written in a Handshake state: the acknowledgment (R166) or a mismatch (R167). -/
def takeAcknowledge (finish : TransactionState) (b : Byte) (s : State) : State :=
  if b = Config.ackByte then { s with ts := finish } else ackMismatchAbort b s

/-- `writeNotify(b)`: what a received byte does, in each state that consumes one (R166 to R168, R190 to
R196). -/
def writeNotify (b : Byte) (s : State) : Host.Outcome State Fault Refusal :=
  match s.ts with
  | .getCommand => .next (takeCommand b s)
  | .getAddress => takeAddressByte b s
  | .getReadRetryCount => .next (takeRetryCount b s)
  | .getReadSparingThreshold => .next (takeSparingThreshold b s)
  | .getWrittenData => .next (takeDataByte b s)
  | ts =>
    match finishAfterHandshake ts with
    | some finish => .next (takeAcknowledge finish b s)
    | none => .next (raise (.transactionOrderViolation .wr ts (some b)) s)

/-- The third address byte of an unknown command is about to be consumed (R127, R192). -/
def unknownCommandDue (s : State) : Bool :=
  s.ts = .getAddress && s.acnt = 2 && afterAddress s.cmdb = none

/-- WR b: the host writes the data bus (R127). The checks come in the order of R241 and the first that
fails decides. -/
def hostWrite (b : Byte) (s : State) : Host.Outcome State Fault Refusal :=
  accept .wr s fun s => unlessHalted s fun s =>
    if s.bs ≠ .hostWillWrite then .next (raise (.byteOrderViolation .wr s.bs s.ts) s)
    else if !consumesByte s.ts then .next (raise (.transactionOrderViolation .wr s.ts (some b)) s)
    else if unknownCommandDue s then .next (raise (.unknownCommand s.cmdb) s)
    else writeNotify b { s with bs := .hostDidWrite }

/-! ### The lines of the byte layer -/

/-- DIR.R and DIR.W: the direction set while BS is Idle (R122, R123). -/
def setDirection (e : Event) (d : ByteDirection) (s : State) : Host.Outcome State Fault Refusal :=
  accept e s fun s => unlessHalted s fun s =>
    if s.bs ≠ .idle then .next (raise (.byteOrderViolation e s.bs s.ts) s)
    else .next { s with dir := d }

/-- STB.A: a byte transfer opened in the current direction (R124). -/
def strobeRise (s : State) : Host.Outcome State Fault Refusal :=
  accept .stbA s fun s => unlessHalted s fun s =>
    if s.bs ≠ .idle then .next (raise (.byteOrderViolation .stbA s.bs s.ts) s)
    else
      match s.dir with
      | .hostRead => .next { s with bs := .hostWillRead }
      | .hostWrite => .next { s with bs := .hostWillWrite }

/-- STB.D: a byte transfer closed (R125). -/
def strobeFall (s : State) : Host.Outcome State Fault Refusal :=
  accept .stbD s fun s => unlessHalted s fun s =>
    if (s.bs = .hostDidRead ∧ s.dir = .hostRead) ∨ (s.bs = .hostDidWrite ∧ s.dir = .hostWrite) then
      .next { s with bs := .idle }
    else .next (raise (.byteOrderViolation .stbD s.bs s.ts) s)

end Sys2Proof.Machine
end

