-- ==== Sys2Proof/Machine/Bus.lean ====
section
/-! DEFINITION. The meanings of the bus accesses and of the byte codes the host writes (R126, R127, R166,
R167, R190). A command or acknowledgment byte is the WR that carries it: the phase says what it is (R93). -/

namespace Sys2Proof.Machine

/-- RD (R126). -/
def execRd (s : State) : Host.Outcome State Fault Refusal := hostRead s

/-- WR b (R127). -/
def execWr (b : Byte) (s : State) : Host.Outcome State Fault Refusal := hostWrite b s

/-- READ: the byte 0x00 (R190). -/
def execRead (s : State) : Host.Outcome State Fault Refusal := hostWrite Config.cmdRead s

/-- WRITE: the byte 0x01 (R190). -/
def execWrite (s : State) : Host.Outcome State Fault Refusal := hostWrite Config.cmdWrite s

/-- WRITEVERIFY: the byte 0x02 (R190). -/
def execWriteVerify (s : State) : Host.Outcome State Fault Refusal := hostWrite Config.cmdWriteVerify s

/-- CMD.UNKNOWN: a command byte that names no command, stored as it is (R190); the error comes with the
third address byte (R192). -/
def execCmdUnknown (b : Byte) (s : State) : Host.Outcome State Fault Refusal := hostWrite b s

/-- ACK: the byte 0x55 (R166). -/
def execAck (s : State) : Host.Outcome State Fault Refusal := hostWrite Config.ackByte s

/-- ACK.MISMATCH: any other byte (R167). -/
def execAckMismatch (b : Byte) (s : State) : Host.Outcome State Fault Refusal := hostWrite b s

end Sys2Proof.Machine
end

