-- ==== Sys2Proof/Machine/Lines.lean ====
section
/-! DEFINITION. The meanings of the six line events: RESET, DIRECTION and STROBE (R122 to R125, R260, R261). -/

namespace Sys2Proof.Machine

/-- RST.A acts in every state, halted or not (R260). -/
def execRstA (s : State) : Host.Outcome State Fault Refusal :=
  accept .rstA s fun s => .next (resetDevice s)

/-- RST.D lowers the line and changes no device register (R261). -/
def execRstD (s : State) : Host.Outcome State Fault Refusal :=
  accept .rstD s fun s => .next s

/-- DIR.R (R122). -/
def execDirR (s : State) : Host.Outcome State Fault Refusal := setDirection .dirR .hostRead s

/-- DIR.W (R123). -/
def execDirW (s : State) : Host.Outcome State Fault Refusal := setDirection .dirW .hostWrite s

/-- STB.A (R124). -/
def execStbA (s : State) : Host.Outcome State Fault Refusal := strobeRise s

/-- STB.D (R125). -/
def execStbD (s : State) : Host.Outcome State Fault Refusal := strobeFall s

end Sys2Proof.Machine
end

