-- ==== Sys2Proof/Machine/Transaction.lean ====
section
/-! DEFINITION. The meanings of the COMMAND edges and of the next-action codes (R143 to R160). -/

namespace Sys2Proof.Machine

/-- CMD.A (R143). -/
def execCmdA (s : State) : Host.Outcome State Fault Refusal := commandRise s

/-- CMD.D (R154). -/
def execCmdD (s : State) : Host.Outcome State Fault Refusal := commandFall s

/-- NA_GETCMD: 0x01, queued by CMD.A in AwaitingCommand (R144) or HandleReadData (R148). -/
def execNaGetcmd (s : State) : Host.Outcome State Fault Refusal := issueNextAction Config.naGetcmd s

/-- NA_READ: 0x02, queued by CMD.A in AwaitingReadGoahead (R145). -/
def execNaRead (s : State) : Host.Outcome State Fault Refusal := issueNextAction Config.naRead s

/-- NA_WRDATA: 0x03, queued by CMD.A in AwaitingWriteGoahead (R146). -/
def execNaWrdata (s : State) : Host.Outcome State Fault Refusal := issueNextAction Config.naWrdata s

/-- NA_WRVDATA: 0x04, queued by CMD.A in AwaitingWriteVerifyGoahead (R147). -/
def execNaWrvdata (s : State) : Host.Outcome State Fault Refusal := issueNextAction Config.naWrvdata s

/-- NA_PERFORM: 0x06, queued by CMD.A in GetWrittenData after the store (R149). -/
def execNaPerform (s : State) : Host.Outcome State Fault Refusal := issueNextAction Config.naPerform s

end Sys2Proof.Machine
end

