-- ==== Sys2Proof/Machine/Dispatch.lean ====
section
/-! DEFINITION. One arm per instruction. -/

namespace Sys2Proof.Machine

def exec (i : Instr) (s : State) : Host.Outcome State Fault Refusal :=
  match i with
  | .rstA => Sys2Proof.Machine.execRstA s
  | .rstD => Sys2Proof.Machine.execRstD s
  | .dirR => Sys2Proof.Machine.execDirR s
  | .dirW => Sys2Proof.Machine.execDirW s
  | .stbA => Sys2Proof.Machine.execStbA s
  | .stbD => Sys2Proof.Machine.execStbD s
  | .cmdA => Sys2Proof.Machine.execCmdA s
  | .cmdD => Sys2Proof.Machine.execCmdD s
  | .rd => Sys2Proof.Machine.execRd s
  | .wr b => Sys2Proof.Machine.execWr b s
  | .read => Sys2Proof.Machine.execRead s
  | .write => Sys2Proof.Machine.execWrite s
  | .writeVerify => Sys2Proof.Machine.execWriteVerify s
  | .cmdUnknown b => Sys2Proof.Machine.execCmdUnknown b s
  | .naGetcmd => Sys2Proof.Machine.execNaGetcmd s
  | .naRead => Sys2Proof.Machine.execNaRead s
  | .naWrdata => Sys2Proof.Machine.execNaWrdata s
  | .naWrvdata => Sys2Proof.Machine.execNaWrvdata s
  | .naPerform => Sys2Proof.Machine.execNaPerform s
  | .ack => Sys2Proof.Machine.execAck s
  | .ackMismatch b => Sys2Proof.Machine.execAckMismatch b s

end Sys2Proof.Machine
end

