-- ==== Sys2Proof/Machine/Fetch.lean ====
section
/-! DEFINITION. Where the next instruction comes from: the host's stimulus, read in the current phase (R8,
R93, log entry 1). -/

namespace Sys2Proof.Machine

/-- The next stimulus item, decoded in the current phase, and the state without it; none when the host
has nothing to say. -/
def fetchStimulus (s : State) : Option (Except DecodeReject Instr × State) :=
  match s.stim with
  | [] => none
  | st :: rest => some (decode (codeSpaceOf s.ts) st, { s with stim := rest })

/-- A phase whose code space is the one a byte of the opcode table is read in (log entry 5): for a
next-action code the phase whose COMMAND rise queues it. -/
def tablePhase (b : Byte) : TransactionState :=
  if b = Config.naWrdata then .awaitingWriteGoahead
  else if b = Config.naWrvdata then .awaitingWriteVerifyGoahead
  else if b = Config.naPerform then .getWrittenData
  else if b = Config.ackByte then .handshakeTransaction
  else .getCommand

/-- A stimulus item put where the next step fetches it. An EVT word needs nothing else; a byte code needs
a phase that reads it. -/
def placeStimulus (st : Stimulus) (s : State) : State :=
  match st with
  | .event _ => { s with stim := st :: s.stim }
  | .code b => { s with stim := st :: s.stim, ts := tablePhase b }

end Sys2Proof.Machine
end

