-- ==== Sys2Proof/Machine/Step.lean ====
section
/-! DEFINITION. One step: the host's next event, handled to completion (R8). -/

namespace Sys2Proof.Machine

/-- One event. The sequencer has no execution of its own, so a step with no stimulus changes nothing
(R8); an item that is no instruction in the current phase is refused (R91, R93). -/
def step (s : State) : Host.Outcome State Fault Refusal :=
  match fetchStimulus s with
  | none => .next s
  | some (.error why, _) => .refused (.notAnInstruction why)
  | some (.ok i, s') => exec i s'

/-- The state with the instruction of a table word where the next step fetches it; unchanged when the
number is too long to be one. -/
def State.withFetchWord (s : State) (nbits w : Nat) : State :=
  match tableStimulus nbits w with
  | some st => placeStimulus st s
  | none => s

end Sys2Proof.Machine
end

