-- ==== Sys2Proof/Machine/Pseudo.lean ====
section
/-! DEFINITION. The pseudo-instructions of R106 and the transactions of R108 as lists of events, the textual syntax
of R105, and a run of a list of events. They are shorthand: nothing in the step uses them. -/

namespace Sys2Proof.Machine

/-- `RESET`. -/
def resetPulse : List Instr := [.rstA, .rstD]

/-- `GETB`. -/
def getByte : List Instr := [.stbA, .rd, .stbD]

/-- `PUTB b`. -/
def putByte (b : Byte) : List Instr := [.stbA, .wr b, .stbD]

/-- `GETN n`. -/
def getBytes : Nat → List Instr
  | 0 => []
  | n + 1 => getByte ++ getBytes n

/-- `PUTN b0, b1, ...`. -/
def putBytes : List Byte → List Instr
  | [] => []
  | b :: bs => putByte b ++ putBytes bs

/-- `HSKBAD x`, and `HSK` for x = 0x55: the four events of a handshake (R142). -/
def handshakeWith (x : Byte) : List Instr :=
  [.cmdA, .dirR] ++ getByte ++ [.dirW] ++ putByte x ++ [.cmdD]

/-- `HSK`. -/
def handshake : List Instr := handshakeWith Config.ackByte

/-- The three bytes of a block address, most significant first (R65, R97). -/
def addressBytes (a : BlockAddr) : List Byte :=
  [a.extractLsb' 16 8, a.extractLsb' 8 8, a.extractLsb' 0 8]

/-- `CMDRD a, r, t`. -/
def commandRead (a : BlockAddr) (r t : Byte) : List Instr :=
  putBytes ([Config.cmdRead] ++ addressBytes a ++ [r, t])

/-- `CMDWR a`. -/
def commandWrite (a : BlockAddr) : List Instr := putBytes (Config.cmdWrite :: addressBytes a)

/-- `CMDWV a`. -/
def commandWriteVerify (a : BlockAddr) : List Instr := putBytes (Config.cmdWriteVerify :: addressBytes a)

/-- A read of a block as stimulus (R108). -/
def readTransaction (a : BlockAddr) (r t : Byte) : List Instr :=
  handshake ++ commandRead a r t ++ handshake ++ [.dirR] ++ getBytes 4 ++ getBytes 532

/-- A write of a block as stimulus, from its command frame on (R108); for the two write commands. -/
def writeTransactionWith (frame : List Instr) (data : List Byte) : List Instr :=
  handshake ++ frame ++ handshake ++ putBytes data ++ handshake ++ [.dirR] ++ getBytes 4

/-- A write of a block as stimulus (R108). -/
def writeTransaction (a : BlockAddr) (data : List Byte) : List Instr :=
  writeTransactionWith (commandWrite a) data

/-- A write-verify of a block as stimulus (R108). -/
def writeVerifyTransaction (a : BlockAddr) (data : List Byte) : List Instr :=
  writeTransactionWith (commandWriteVerify a) data

/-- A byte in the hexadecimal notation of R105. -/
def byteText (b : Byte) : String :=
  let digit (n : Nat) : Char := "0123456789ABCDEF".toList.getD n '0'
  "0x" ++ String.ofList [digit (b.toNat / 16), digit (b.toNat % 16)]

/-- An instruction in the textual syntax of R105: the mnemonic of its event, with the byte of a WR. -/
def eventText : Instr → String
  | .rstA => "RST.A"
  | .rstD => "RST.D"
  | .dirR => "DIR.R"
  | .dirW => "DIR.W"
  | .stbA => "STB.A"
  | .stbD => "STB.D"
  | .cmdA => "CMD.A"
  | .cmdD => "CMD.D"
  | .rd => "RD"
  | .wr b => "WR " ++ byteText b
  | .read => "WR " ++ byteText Config.cmdRead
  | .write => "WR " ++ byteText Config.cmdWrite
  | .writeVerify => "WR " ++ byteText Config.cmdWriteVerify
  | .cmdUnknown b => "WR " ++ byteText b
  | .naGetcmd => "CMD.A"
  | .naRead => "CMD.A"
  | .naWrdata => "CMD.A"
  | .naWrvdata => "CMD.A"
  | .naPerform => "CMD.A"
  | .ack => "WR " ++ byteText Config.ackByte
  | .ackMismatch b => "WR " ++ byteText b

/-- A stimulus program in the textual syntax of R105, separated by `;`. -/
def stimulusText (is : List Instr) : String := String.intercalate " ; " (is.map eventText)

/-- The events of a list, in order, to the first fault or refusal. -/
def runEvents : List Instr → State → Host.Outcome State Fault Refusal
  | [], s => .next s
  | i :: is, s =>
    match exec i s with
    | .next s' => runEvents is s'
    | .fault r => .fault r
    | .refused r => .refused r

end Sys2Proof.Machine
end

