-- ==== Sys2Proof/Safety.lean ====
section
/-! DEFINITION. What a good state is: the invariants the spec lists (R42, R130, R41), no error recorded
(R34, R239), and the registers a RESET leaves alike (R264). -/

namespace Sys2Proof.Machine

/-- A legal run: no error recorded and not halted (R239). -/
def State.clean (s : State) : Prop := s.err = .noError ∧ s.halt = false

/-- Not halted, and RESET not asserted: the device reacts to its events (R92, R239). -/
abbrev State.running (s : State) : Prop := s.halt = false ∧ s.lnReset = false

/-- The byte an instruction has the host write (R93, R94, R96, R127); none for the others. -/
def writtenByte : Instr → Option Byte
  | .wr b => some b
  | .read => some 0x00
  | .write => some 0x01
  | .writeVerify => some 0x02
  | .cmdUnknown b => some b
  | .ack => some 0x55
  | .ackMismatch b => some b
  | _ => none

/-- The code a next-action instruction stands for (R95); none for the others. -/
def nextActionCode : Instr → Option Byte
  | .naGetcmd => some 0x01
  | .naRead => some 0x02
  | .naWrdata => some 0x03
  | .naWrvdata => some 0x04
  | .naPerform => some 0x06
  | _ => none

/-- The outbound queue holds exactly what the phase has put there and the host has not read (R42(c), R69,
R99, R41(a)): one next-action byte in a Start state, an end part of the status word and the block in
the delivery states, nothing elsewhere. -/
def queueOk (s : State) : Prop :=
  match s.ts with
  | .startTransaction => s.oq = [Config.naGetcmd]
  | .startReadTransaction => s.oq = [Config.naRead]
  | .startWriteTransaction => s.oq = [Config.naWrdata]
  | .startWriteVerifyTransaction => s.oq = [Config.naWrvdata]
  | .startStatusTransaction => s.oq = [Config.naPerform]
  | .handleReadStatus => ∃ k, k < 4 ∧ s.oq = (statusWord.toList ++ s.buf.toList).drop k
  | .handleReadData => ∃ k, k < 532 ∧ s.oq = s.buf.toList.drop k
  | .handleWriteStatus => ∃ k, k < 4 ∧ s.oq = statusWord.toList.drop k
  | _ => s.oq = []

/-- The command byte agrees with the path TS is on, from the state after the third address byte to the
end of the transaction (R140, R192). -/
def pathOk (s : State) : Prop :=
  match s.ts with
  | .getReadRetryCount => s.cmdb = Config.cmdRead
  | .getReadSparingThreshold => s.cmdb = Config.cmdRead
  | .awaitingReadGoahead => s.cmdb = Config.cmdRead
  | .startReadTransaction => s.cmdb = Config.cmdRead
  | .handshakeReadTransaction => s.cmdb = Config.cmdRead
  | .finishReadHandshake => s.cmdb = Config.cmdRead
  | .handleReadStatus => s.cmdb = Config.cmdRead
  | .handleReadData => s.cmdb = Config.cmdRead
  | .awaitingWriteGoahead => s.cmdb = Config.cmdWrite
  | .startWriteTransaction => s.cmdb = Config.cmdWrite
  | .awaitingWriteVerifyGoahead => s.cmdb = Config.cmdWriteVerify
  | .startWriteVerifyTransaction => s.cmdb = Config.cmdWriteVerify
  | .awaitingCommand => True
  | .startTransaction => True
  | .handshakeTransaction => True
  | .finishHandshake => True
  | .getCommand => True
  | .getAddress => True
  | _ => s.cmdb = Config.cmdWrite ∨ s.cmdb = Config.cmdWriteVerify

/-- DIR agrees with a byte transfer in progress (R130). -/
def directionOk (s : State) : Prop :=
  match s.bs with
  | .idle => True
  | .hostWillRead => s.dir = .hostRead
  | .hostDidRead => s.dir = .hostRead
  | .hostWillWrite => s.dir = .hostWrite
  | .hostDidWrite => s.dir = .hostWrite

/-- The registers of R20 at the values RST.A gives them (R260), BUF aside, which it leaves unspecified. -/
def atReset (s : State) : Prop :=
  s.ts = .awaitingCommand ∧ s.bs = .idle ∧ s.cmdv = false ∧ s.cmdb = 0 ∧ s.addr = 0 ∧ s.acnt = 0 ∧
  s.retry = 0 ∧ s.spare = 0 ∧ s.wcnt = 0 ∧ s.oq = [] ∧ s.busy = false ∧ s.err = .noError ∧ s.halt = false

/-- BS is Idle exactly when STROBE is low (R42(e)). -/
def strobeMatches (s : State) : Prop := s.bs = .idle ↔ s.lnStrobe = false

/-- The invariants of the sequencer. The spec lists them for a state that is not halted (R42); a fatal
error writes no register they speak of (R236), so but for the lines they hold under HALT too. -/
structure SequencerInv (s : State) : Prop where
  /-- R42(a): a command is in flight exactly in the states 5 to 25. -/
  command : s.cmdv = true ↔ 5 ≤ tsNumber s.ts
  /-- R42(b): three address bytes from state 6 on. -/
  addressFull : 6 ≤ tsNumber s.ts → s.acnt = 3
  /-- R42(b): fewer than three in GetAddress. -/
  addressPartial : s.ts = .getAddress → s.acnt.val < 3
  /-- R42(c). -/
  queue : queueOk s
  /-- R42(d): BUSY is 1 exactly in the Start, Handshake and Finish states. -/
  busyPhase : s.busy = inHandshake s.ts
  /-- R41(b): AwaitingStatusGoahead is never the state between two events. -/
  settled : s.ts ≠ .awaitingStatusGoahead
  /-- The command byte agrees with the path (R140). -/
  path : pathOk s
  /-- R124: a transfer in progress means STROBE is high. -/
  strobe : s.halt = false → s.bs ≠ .idle → s.lnStrobe = true
  /-- R171: outside AwaitingCommand COMMAND is high exactly while BUSY is 1. -/
  commandLine : s.halt = false → s.ts ≠ .awaitingCommand → s.lnCmd = s.busy
  /-- R130. -/
  direction : directionOk s
  /-- R261: what RST.A produced is still in place while RESET is asserted. -/
  held : s.lnReset = true → atReset s
  /-- R236: a fatal error leaves a code in ERR. -/
  errorRecorded : s.halt = true → s.err ≠ .noError
  /-- The BlockStore's contents are in canonical form. -/
  store : s.sigma.wf

/-- The bytes of a field of the metadata block (R215). -/
def metaFieldBytes (f : Config.MetaField) : List Byte :=
  (metaBlock.toList.drop (metaPlace f).first).take (metaPlace f).width

/-- The number that a field's bytes stand for, in the byte order of the metadata block (log entry 15). -/
def metaNumber (bytes : List Byte) : Nat :=
  (if Config.metaBigEndian then bytes else bytes.reverse).foldl (fun n b => n * 256 + b.toNat) 0

/-- The advisory bytes erased (R28). -/
def State.withoutAdvisory (s : State) : State := { s with retry := 0, spare := 0 }

/-- A function of states over the three outcomes of an event. -/
def mapOutcome (f : State → State) : Host.Outcome State Fault Refusal → Host.Outcome State Fault Refusal
  | .next s => .next (f s)
  | .fault r => .fault r
  | .refused r => .refused r

end Sys2Proof.Machine
end

