-- ==== Sys2Proof/Certificates/Slice0/Obligations.lean ====
section
/-! DEFINITION. The statements for the provers, each a proposition about every state of the model. -/

open Sys2Proof Sys2Proof.Machine

/-! ### Encoding, and the step -/

/-- Decoding the encoding of a well-formed instruction, in its code space, gives the instruction. -/
def Obligations.DecodeOfEncodeIsTheInstruction : Prop :=
  ∀ i : Instr, i.wellFormed = true → decode i.codeSpace (encode i) = .ok i

/-- What the decoder answers is well formed, encodes back to what was read, and belongs to the code space
it was read in. -/
def Obligations.DecodedInstructionEncodesBack : Prop :=
  ∀ (space : Option CodeSpace) (st : Stimulus) (i : Instr), decode space st = .ok i →
    i.wellFormed = true ∧ encode i = st ∧ (i.codeSpace = none ∨ i.codeSpace = space)

/-- Format EVT whole: the ten codes of the table, with data 0 for all but WR; every other word rejected. -/
def Obligations.EventWordsDecodeByTheTable : Prop :=
  ∀ d : Byte,
    (∀ p ∈ ([(0x0, .rstA), (0x1, .rstD), (0x2, .dirR), (0x3, .dirW), (0x4, .stbA), (0x5, .stbD),
        (0x6, .cmdA), (0x7, .cmdD), (0x8, .rd)] : List (BitVec 4 × Instr)),
      decodeEvent (0#4 ++ p.1 ++ d) = if d = 0 then .ok p.2 else .error .dataNotZero) ∧
    decodeEvent (0#4 ++ 0x9#4 ++ d) = .ok (.wr d) ∧
    ∀ e : BitVec 4, 0x9#4 < e → decodeEvent (0#4 ++ e ++ d) = .error .noSuchEvent

/-- A few words written out from the tables, read by the decoder. -/
def Obligations.SpelledOutWordsDecode : Prop :=
  decodeTableWord 16 0b000000000000 = some .rstA ∧
  decodeTableWord 16 0b001000000000 = some .dirR ∧
  decodeTableWord 16 0b010000000000 = some .stbA ∧
  decodeTableWord 16 0b011000000000 = some .cmdA ∧
  decodeTableWord 16 0b100000000000 = some .rd ∧
  decodeTableWord 16 0b100101010101 = some (.wr 0x55) ∧
  decodeTableWord 8 0b00000010 = some .writeVerify ∧
  decodeTableWord 8 0b00000110 = some .naPerform ∧
  decodeTableWord 8 0b01010101 = some .ack ∧
  decodeTableWord 8 0b01111111 = some (.cmdUnknown 0x7F)

/-- When the next stimulus item decodes in the current phase, step is exec of that instruction on the state
without the item. -/
def Obligations.StepRunsTheDecodedInstruction : Prop :=
  ∀ (s : State) (st : Stimulus) (rest : List Stimulus) (i : Instr),
    s.stim = st :: rest → decode (codeSpaceOf s.ts) st = .ok i →
    step s = exec i { s with stim := rest }

/-- A step with no stimulus changes nothing; an item that is no instruction is refused. -/
def Obligations.StepWithoutAnInstruction : Prop :=
  (∀ s : State, s.stim = [] → step s = .next s) ∧
  ∀ (s : State) (st : Stimulus) (rest : List Stimulus) (why : DecodeReject),
    s.stim = st :: rest → decode (codeSpaceOf s.ts) st = .error why →
    step s = .refused (.notAnInstruction why)

/-- The command and acknowledgment codes are the write of their byte, in every state. -/
def Obligations.WrittenCodesAreTheWriteOfTheirByte : Prop :=
  ∀ (i : Instr) (b : Byte) (s : State), writtenByte i = some b → exec i s = exec (.wr b) s

/-! ### Reset, lines, halt -/

/-- RST.A in every state with RESET low: the registers of R20 re-initialised, BUF unspecified, DIR, LN.STROBE,
LN.CMD and sigma kept. `draws` is the model's own counter of free draws (log entry 2). -/
def Obligations.ResetRiseReinitialises : Prop :=
  ∀ s : State, s.lnReset = false →
    ∃ t, exec .rstA s = .next t ∧ t = { s with
      lnReset := true, ts := .awaitingCommand, bs := .idle, cmdv := false, cmdb := 0, addr := 0, acnt := 0
      retry := 0, spare := 0, wcnt := 0, oq := [], busy := false, err := .noError, halt := false
      buf := t.buf, draws := t.draws
      outputs := s.outputs ++ (if s.busy then [.busy false] else []) }

/-- What RST.A leaves in BUF is a free draw, made with a number of its own: the model's form of an unspecified
value (log entry 2). -/
def Obligations.ResetRiseLeavesBufFree : Prop :=
  ∀ s : State, s.lnReset = false →
    ∃ t, exec .rstA s = .next t ∧ t.draws = s.draws + 1 ∧
      ∀ (k : Nat) (h : k < 532), t.buf[k] = Config.freeByte s.draws k

/-- RST.D lowers the line and writes nothing else. -/
def Obligations.ResetFallLowersTheLine : Prop :=
  ∀ s : State, s.lnReset = true → exec .rstD s = .next { s with lnReset := false }

/-- Two reset pulses leave what one leaves, but for BUF, which is unspecified after each. -/
def Obligations.TwoResetPulsesLeaveWhatOneLeaves : Prop :=
  ∀ s : State, s.lnReset = false →
    ∃ t u, runEvents resetPulse s = .next t ∧ runEvents (resetPulse ++ resetPulse) s = .next u ∧
      atReset t ∧ t.dir = s.dir ∧ t.lnStrobe = s.lnStrobe ∧ t.lnCmd = s.lnCmd ∧ t.sigma = s.sigma ∧
      { u with buf := t.buf, draws := t.draws } = t

/-- The state at power-on, without the two values the spec leaves open (DIR and BUF). -/
def Obligations.PowerOnStateIsTheResetState : Prop :=
  atReset State.reset ∧ State.reset.lnReset = false ∧ State.reset.lnStrobe = false ∧
  State.reset.lnCmd = false ∧ State.reset.sigma = .pattern

/-- While RESET is asserted every event but RST.D is refused. -/
def Obligations.HeldInResetOnlyRstDHasAMeaning : Prop :=
  ∀ s : State, s.lnReset = true →
    exec .rstD s = .next { s with lnReset := false } ∧
    ∀ i : Instr, i ≠ .rstD → ∃ r, exec i s = .refused r

/-- An edge event that does not change its line is refused. -/
def Obligations.EdgesThatDoNotChangeTheirLineAreRefused : Prop :=
  ∀ s : State,
    (s.lnReset = true → exec .rstA s = .refused (.illFormedStimulus .rstA)) ∧
    (s.lnReset = false → exec .rstD s = .refused (.illFormedStimulus .rstD)) ∧
    (s.lnStrobe = true → exec .stbA s = .refused (.illFormedStimulus .stbA)) ∧
    (s.lnStrobe = false → exec .stbD s = .refused (.illFormedStimulus .stbD)) ∧
    (s.lnCmd = true → exec .cmdA s = .refused (.illFormedStimulus .cmdA)) ∧
    (s.lnCmd = false → exec .cmdD s = .refused (.illFormedStimulus .cmdD)) ∧
    ∀ i, i.event = .cmdA → s.lnCmd = true → ∃ r, exec i s = .refused r

/-- Each edge event sets the level of its line, whatever else it does, and no other event moves a line. -/
def Obligations.LinesFollowTheirEdges : Prop :=
  ∀ (i : Instr) (s t : State), exec i s = .next t →
    t.lnReset = (if i.event = .rstA then true else if i.event = .rstD then false else s.lnReset) ∧
    t.lnStrobe = (if i.event = .stbA then true else if i.event = .stbD then false else s.lnStrobe) ∧
    t.lnCmd = (if i.event = .cmdA then true else if i.event = .cmdD then false else s.lnCmd)

/-- While HALT is set: RST.A re-initialises, RST.D lowers its line, and every other well-formed event changes
no register but the level of its line; an RD returns an unspecified byte. -/
def Obligations.HaltedMachineOnlyFollowsItsLines : Prop :=
  ∀ s : State, s.halt = true →
    (s.lnReset = false → ∃ t, exec .rstA s = .next t ∧ atReset t) ∧
    (s.lnReset = true → exec .rstD s = .next { s with lnReset := false }) ∧
    (s.lnReset = false →
      (∀ i : Instr, i.event = .dirR ∨ i.event = .dirW ∨ i.event = .wr → exec i s = .next s) ∧
      (s.lnStrobe = false → exec .stbA s = .next { s with lnStrobe := true }) ∧
      (s.lnStrobe = true → exec .stbD s = .next { s with lnStrobe := false }) ∧
      (s.lnCmd = false → ∀ i : Instr, i.event = .cmdA → exec i s = .next { s with lnCmd := true }) ∧
      (s.lnCmd = true → exec .cmdD s = .next { s with lnCmd := false }) ∧
      exec .rd s = .next { s with rdByte := Config.freeByte s.draws 0, draws := s.draws + 1 })

/-! ### Errors -/

/-- Taking a fatal error: a report, the first code latched in ERR, HALT, and nothing else. -/
def Obligations.FatalErrorsReportLatchAndHalt : Prop :=
  ∀ (s : State) (e : Event) (bs : ByteState) (ts : TransactionState) (ob : Option Byte) (c : Byte),
    raise (.byteOrderViolation e bs ts) s = { s with
      outputs := s.outputs ++ [.report (.byteOrderViolation e bs ts)]
      err := if s.err = .noError then .byteOrderViolation else s.err, halt := true } ∧
    raise (.transactionOrderViolation e ts ob) s = { s with
      outputs := s.outputs ++ [.report (.transactionOrderViolation e ts ob)]
      err := if s.err = .noError then .transactionOrderViolation else s.err, halt := true } ∧
    raise (.outboundUnderrun ts) s = { s with
      outputs := s.outputs ++ [.report (.outboundUnderrun ts)]
      err := if s.err = .noError then .outboundUnderrun else s.err, halt := true } ∧
    raise (.unknownCommand c) s = { s with
      outputs := s.outputs ++ [.report (.unknownCommand c)]
      err := if s.err = .noError then .unknownCommand else s.err, halt := true }

/-- ERR once set, and HALT once set, are changed by RST.A alone. -/
def Obligations.ErrAndHaltAreClearedOnlyByReset : Prop :=
  ∀ (i : Instr) (s t : State), exec i s = .next t → i ≠ .rstA →
    (s.err ≠ .noError → t.err = s.err) ∧ (s.halt = true → t.halt = true)

/-! ### The Byte Transfer Engine -/

/-- DIR.R and DIR.W: DIR written while BS is Idle, a fatal ByteOrderViolation otherwise. -/
def Obligations.DirectionIsSetWhileIdle : Prop :=
  ∀ s : State, s.running →
    (s.bs = .idle → exec .dirR s = .next { s with dir := .hostRead }) ∧
    (s.bs = .idle → exec .dirW s = .next { s with dir := .hostWrite }) ∧
    (s.bs ≠ .idle → exec .dirR s = .next (raise (.byteOrderViolation .dirR s.bs s.ts) s)) ∧
    (s.bs ≠ .idle → exec .dirW s = .next (raise (.byteOrderViolation .dirW s.bs s.ts) s))

/-- STB.A: BS leaves Idle in the direction of DIR; a fatal ByteOrderViolation from any other BS. -/
def Obligations.StrobeRiseOpensATransfer : Prop :=
  ∀ s : State, s.running → s.lnStrobe = false →
    (s.bs = .idle → s.dir = .hostRead →
      exec .stbA s = .next { s with lnStrobe := true, bs := .hostWillRead }) ∧
    (s.bs = .idle → s.dir = .hostWrite →
      exec .stbA s = .next { s with lnStrobe := true, bs := .hostWillWrite }) ∧
    (s.bs ≠ .idle →
      exec .stbA s =
        .next (raise (.byteOrderViolation .stbA s.bs s.ts) { s with lnStrobe := true }))

/-- STB.D: BS returns to Idle after an access that matches DIR; a fatal ByteOrderViolation otherwise. -/
def Obligations.StrobeFallClosesATransfer : Prop :=
  ∀ s : State, s.running → s.lnStrobe = true →
    exec .stbD s =
      if (s.bs = .hostDidRead ∧ s.dir = .hostRead) ∨ (s.bs = .hostDidWrite ∧ s.dir = .hostWrite) then
        .next { s with lnStrobe := false, bs := .idle }
      else .next (raise (.byteOrderViolation .stbD s.bs s.ts) { s with lnStrobe := false })

/-- A bus access in the wrong ByteState is a fatal ByteOrderViolation, whatever the queue and TS say. -/
def Obligations.BusAccessOutOfOrderIsFatal : Prop :=
  ∀ s : State, s.running →
    (s.bs ≠ .hostWillRead →
      exec .rd s = .next { raise (.byteOrderViolation .rd s.bs s.ts) s with
        rdByte := Config.freeByte s.draws 0, draws := s.draws + 1 }) ∧
    ∀ (i : Instr) (b : Byte), writtenByte i = some b → s.bs ≠ .hostWillWrite →
      exec i s = .next (raise (.byteOrderViolation .wr s.bs s.ts) s)

/-- RD on an empty queue is a fatal OutboundUnderrun and the byte returned is unspecified. -/
def Obligations.ReadOfAnEmptyQueueUnderruns : Prop :=
  ∀ s : State, s.running → s.bs = .hostWillRead → s.oq = [] →
    exec .rd s = .next { raise (.outboundUnderrun s.ts) s with
      rdByte := Config.freeByte s.draws 0, draws := s.draws + 1 }

/-- RD returns the head of the queue and removes it; but for TS and CMDV nothing else changes. -/
def Obligations.ReadReturnsTheHeadOfTheQueue : Prop :=
  ∀ (s : State) (v : Byte) (rest : List Byte),
    s.running → s.bs = .hostWillRead → s.oq = v :: rest →
    ∃ t, exec .rd s = .next t ∧
      t = { s with ts := t.ts, cmdv := t.cmdv, oq := rest, bs := .hostDidRead, rdByte := v
                   outputs := s.outputs ++ [.busByte v] }

/-- RD in a Start state leads to the Handshake state. -/
def Obligations.ReadInAStartStateLeadsToTheHandshakeState : Prop :=
  ∀ (s : State) (v : Byte) (rest : List Byte),
    s.running → s.bs = .hostWillRead → s.oq = v :: rest →
    ∀ p ∈ ([(.startTransaction, .handshakeTransaction),
        (.startReadTransaction, .handshakeReadTransaction),
        (.startWriteTransaction, .handshakeWriteTransaction),
        (.startWriteVerifyTransaction, .handshakeWriteTransaction),
        (.startStatusTransaction, .handshakeStatusTransaction)] :
        List (TransactionState × TransactionState)),
      s.ts = p.1 →
      exec .rd s = .next { s with
        ts := p.2, oq := rest, bs := .hostDidRead, rdByte := v, outputs := s.outputs ++ [.busByte v] }

/-- RD in HandleReadStatus: on to HandleReadData when 532 bytes are left after the pop. -/
def Obligations.ReadStatusEndsWhenTheBlockIsLeft : Prop :=
  ∀ (s : State) (v : Byte) (rest : List Byte),
    s.running → s.bs = .hostWillRead → s.oq = v :: rest → s.ts = .handleReadStatus →
    exec .rd s = .next { s with
      ts := if rest.length = 532 then .handleReadData else .handleReadStatus
      oq := rest, bs := .hostDidRead, rdByte := v, outputs := s.outputs ++ [.busByte v] }

/-- RD in HandleReadData and in HandleWriteStatus: the transaction ends when nothing is left. -/
def Obligations.LastByteReadEndsTheTransaction : Prop :=
  ∀ (s : State) (v : Byte) (rest : List Byte),
    s.running → s.bs = .hostWillRead → s.oq = v :: rest →
    s.ts = .handleReadData ∨ s.ts = .handleWriteStatus →
    exec .rd s = .next { s with
      ts := if rest = [] then .awaitingCommand else s.ts
      cmdv := if rest = [] then false else s.cmdv
      oq := rest, bs := .hostDidRead, rdByte := v, outputs := s.outputs ++ [.busByte v] }

/-- A byte written in a state that consumes none is a fatal TransactionOrderViolation and BS stays. -/
def Obligations.WriteNoStateConsumesIsFatal : Prop :=
  ∀ (s : State) (b : Byte), s.running → s.bs = .hostWillWrite →
    s.ts ∈ ([.awaitingCommand, .awaitingReadGoahead, .awaitingWriteGoahead, .awaitingWriteVerifyGoahead,
      .awaitingStatusGoahead, .startTransaction, .startReadTransaction, .startWriteTransaction,
      .startWriteVerifyTransaction, .startStatusTransaction, .finishHandshake, .finishReadHandshake,
      .finishWriteHandshake, .finishStatusHandshake, .handleReadStatus, .handleReadData,
      .handleWriteStatus] : List TransactionState) →
    exec (.wr b) s = .next (raise (.transactionOrderViolation .wr s.ts (some b)) s)

/-! ### The Command Interpreter -/

/-- A command byte, known or not, is taken in GetCommand. -/
def Obligations.CommandByteIsTaken : Prop :=
  ∀ s : State, s.running → s.bs = .hostWillWrite → s.ts = .getCommand →
    exec .read s = .next { s with
      bs := .hostDidWrite, cmdb := 0x00, cmdv := true, addr := 0, acnt := 0, ts := .getAddress } ∧
    exec .write s = .next { s with
      bs := .hostDidWrite, cmdb := 0x01, cmdv := true, addr := 0, acnt := 0, ts := .getAddress } ∧
    exec .writeVerify s = .next { s with
      bs := .hostDidWrite, cmdb := 0x02, cmdv := true, addr := 0, acnt := 0, ts := .getAddress } ∧
    (∀ b, exec (.cmdUnknown b) s = .next { s with
      bs := .hostDidWrite, cmdb := b, cmdv := true, addr := 0, acnt := 0, ts := .getAddress }) ∧
    ∀ b, exec (.wr b) s = .next { s with
      bs := .hostDidWrite, cmdb := b, cmdv := true, addr := 0, acnt := 0, ts := .getAddress }

/-- The first and second address bytes are shifted in. -/
def Obligations.AddressByteIsShiftedIn : Prop :=
  ∀ (s : State) (b : Byte), s.running → s.bs = .hostWillWrite → s.ts = .getAddress → s.acnt.val < 2 →
    exec (.wr b) s = .next { s with
      bs := .hostDidWrite, addr := (s.addr <<< 8) ||| b.zeroExtend 24, acnt := s.acnt + 1 }

/-- The third address byte chooses the path by the command; for an unknown command it is a fatal error and
nothing is consumed. -/
def Obligations.ThirdAddressByteChoosesThePath : Prop :=
  ∀ (s : State) (b : Byte), s.running → s.bs = .hostWillWrite → s.ts = .getAddress → s.acnt = 2 →
    exec (.wr b) s =
      if s.cmdb = 0x00 then
        .next { s with
          bs := .hostDidWrite, addr := (s.addr <<< 8) ||| b.zeroExtend 24, acnt := 3
          ts := .getReadRetryCount }
      else if s.cmdb = 0x01 then
        .next { s with
          bs := .hostDidWrite, addr := (s.addr <<< 8) ||| b.zeroExtend 24, acnt := 3
          ts := .awaitingWriteGoahead }
      else if s.cmdb = 0x02 then
        .next { s with
          bs := .hostDidWrite, addr := (s.addr <<< 8) ||| b.zeroExtend 24, acnt := 3
          ts := .awaitingWriteVerifyGoahead }
      else .next (raise (.unknownCommand s.cmdb) s)

/-- Three byte transfers after the command byte of a read give the address, most significant byte first. -/
def Obligations.ThreeTransfersGiveABigEndianAddress : Prop :=
  ∀ (s : State) (a b c : Byte), s.running → s.bs = .idle → s.dir = .hostWrite → s.lnStrobe = false →
    s.ts = .getAddress → s.acnt = 0 → s.addr = 0 → s.cmdb = 0x00 →
    runEvents (putBytes [a, b, c]) s =
      .next { s with addr := a ++ b ++ c, acnt := 3, ts := .getReadRetryCount }

/-- The retry-count byte is stored. -/
def Obligations.RetryCountByteIsStored : Prop :=
  ∀ (s : State) (b : Byte), s.running → s.bs = .hostWillWrite → s.ts = .getReadRetryCount →
    exec (.wr b) s = .next { s with bs := .hostDidWrite, retry := b, ts := .getReadSparingThreshold }

/-- The sparing-threshold byte is stored and the block fetched: from the BlockStore, or the metadata block for
the two reserved addresses, which do not reach the BlockStore. -/
def Obligations.SparingThresholdByteFetchesTheBlock : Prop :=
  ∀ (s : State) (b : Byte), s.running → s.bs = .hostWillWrite → s.ts = .getReadSparingThreshold →
    exec (.wr b) s =
      if s.addr = 0xFFFFFE ∨ s.addr = 0xFFFFFF then
        .next { s with bs := .hostDidWrite, spare := b, buf := metaBlock, ts := .awaitingReadGoahead }
      else
        .next { s with
          bs := .hostDidWrite, spare := b, buf := storeRead s.sigma s.addr, ts := .awaitingReadGoahead
          outputs := s.outputs ++ [.storeRead s.addr] }

/-- A data byte goes to BUF at index WCNT; past 532 bytes it is dropped without error. -/
def Obligations.DataByteIsCollectedOrDropped : Prop :=
  ∀ (s : State) (b : Byte), s.running → s.bs = .hostWillWrite → s.ts = .getWrittenData →
    (∀ h : s.wcnt.val < 532, exec (.wr b) s = .next { s with
      bs := .hostDidWrite, buf := s.buf.set s.wcnt.val b h, wcnt := ⟨s.wcnt.val + 1, by omega⟩ }) ∧
    (s.wcnt.val = 532 → exec (.wr b) s = .next { s with bs := .hostDidWrite })

/-- A data frame of at most 532 bytes written from WCNT = 0 is BUF's beginning, byte k at index k, and the rest
of BUF is kept. -/
def Obligations.DataFrameFillsTheBuffer : Prop :=
  ∀ (s : State) (data : List Byte), s.running → s.bs = .idle → s.dir = .hostWrite →
    s.lnStrobe = false → s.ts = .getWrittenData → s.wcnt = 0 → data.length ≤ 532 →
    ∃ t, runEvents (putBytes data) s = .next t ∧ t = { s with buf := t.buf, wcnt := t.wcnt } ∧
      t.wcnt.val = data.length ∧
      ∀ (i : Nat) (h : i < 532), t.buf[i] = if hi : i < data.length then data[i] else s.buf[i]

/-! ### The handshakes -/

/-- The acknowledgment 0x55 in a Handshake state leads to the Finish state and changes nothing else. -/
def Obligations.AcknowledgmentLeadsToTheFinishState : Prop :=
  ∀ s : State, s.running → s.bs = .hostWillWrite →
    ∀ p ∈ ([(.handshakeTransaction, .finishHandshake), (.handshakeReadTransaction, .finishReadHandshake),
        (.handshakeWriteTransaction, .finishWriteHandshake),
        (.handshakeStatusTransaction, .finishStatusHandshake)] :
        List (TransactionState × TransactionState)),
      s.ts = p.1 →
      exec .ack s = .next { s with bs := .hostDidWrite, ts := p.2 } ∧
      exec (.wr 0x55) s = .next { s with bs := .hostDidWrite, ts := p.2 }

/-- Any other byte in a Handshake state is reported and aborts the transaction; HALT is not set. -/
def Obligations.AckMismatchAbortsTheTransaction : Prop :=
  ∀ (s : State) (b : Byte), s.running → s.bs = .hostWillWrite →
    s.ts ∈ ([.handshakeTransaction, .handshakeReadTransaction, .handshakeWriteTransaction,
      .handshakeStatusTransaction] : List TransactionState) →
    b ≠ 0x55 →
    ∀ i : Instr, i = .ackMismatch b ∨ i = .wr b →
      exec i s = .next { s with
        bs := .hostDidWrite, ts := .awaitingCommand, cmdv := false, oq := [], busy := false
        err := if s.err = .noError then .ackMismatch else s.err
        outputs := s.outputs ++ [.report (.ackMismatch b s.ts)] ++ (if s.busy then [.busy false] else []) }

/-- CMD.A in AwaitingCommand, in the three go-ahead states and in the transient AwaitingStatusGoahead queues the
next-action code of the state, asserts BUSY and enters the Start state; so do the next-action instructions. -/
def Obligations.GoAheadRiseQueuesItsCode : Prop :=
  ∀ s : State, s.running → s.lnCmd = false →
    ∀ p ∈ ([(.awaitingCommand, .naGetcmd, 0x01, .startTransaction),
        (.awaitingReadGoahead, .naRead, 0x02, .startReadTransaction),
        (.awaitingWriteGoahead, .naWrdata, 0x03, .startWriteTransaction),
        (.awaitingWriteVerifyGoahead, .naWrvdata, 0x04, .startWriteVerifyTransaction),
        (.awaitingStatusGoahead, .naPerform, 0x06, .startStatusTransaction)] :
        List (TransactionState × Instr × Byte × TransactionState)),
      s.ts = p.1 → ∀ i : Instr, i = .cmdA ∨ i = p.2.1 →
      exec i s = .next { s with
        lnCmd := true, oq := s.oq ++ [p.2.2.1], busy := true, ts := p.2.2.2
        outputs := s.outputs ++ (if s.busy then [] else [.busy true]) }

/-- CMD.A in HandleReadData drops what is left of the block and restarts the get-command handshake, without an
error; in HandleReadStatus and HandleWriteStatus it is a fatal TransactionOrderViolation. -/
def Obligations.RiseDuringReadDataAbortsTheRead : Prop :=
  ∀ s : State, s.running → s.lnCmd = false →
    (s.ts = .handleReadData → ∀ i : Instr, i = .cmdA ∨ i = .naGetcmd →
      exec i s = .next { s with
        lnCmd := true, oq := [0x01], cmdv := false, busy := true, ts := .startTransaction
        outputs := s.outputs ++ (if s.busy then [] else [.busy true]) }) ∧
    (s.ts = .handleReadStatus ∨ s.ts = .handleWriteStatus →
      exec .cmdA s =
        .next (raise (.transactionOrderViolation .cmdA s.ts none) { s with lnCmd := true }))

/-- CMD.A in GetWrittenData makes one store, of a block that begins with the bytes collected, drops it for a
reserved address, queues 0x06, asserts BUSY and enters StartStatusTransaction. What BUF holds beyond the
bytes collected is unspecified; every other register is kept. -/
def Obligations.RiseAfterTheDataStoresTheBlock : Prop :=
  ∀ s : State, s.running → s.lnCmd = false → s.ts = .getWrittenData →
    ∀ i : Instr, i = .cmdA ∨ i = .naPerform →
    ∃ (t : State) (blk : Block), exec i s = .next t ∧
      (∀ (k : Nat) (h : k < 532), k < s.wcnt.val → blk[k] = s.buf[k]) ∧
      t = { s with
        lnCmd := true, oq := s.oq ++ [0x06], busy := true, ts := .startStatusTransaction
        buf := blk, draws := t.draws
        sigma := if s.addr = 0xFFFFFE ∨ s.addr = 0xFFFFFF then s.sigma else storeWrite s.sigma s.addr blk
        outputs := s.outputs ++
          (if s.addr = 0xFFFFFE ∨ s.addr = 0xFFFFFF then [] else [.storeWrite s.addr blk]) ++
          (if s.busy then [] else [.busy true]) }

/-- After 532 data bytes the block stored is BUF exactly; after fewer, each byte from index WCNT on is a free
value of a draw made at the store. -/
def Obligations.ShortWriteLeavesTheTailUnspecified : Prop :=
  ∀ s : State, s.running → s.lnCmd = false → s.ts = .getWrittenData →
    s.addr ≠ 0xFFFFFE → s.addr ≠ 0xFFFFFF → s.busy = false →
    ∃ (t : State) (blk : Block), exec .cmdA s = .next t ∧
      t.outputs = s.outputs ++ [.storeWrite s.addr blk, .busy true] ∧
      t.sigma = storeWrite s.sigma s.addr blk ∧
      (s.wcnt.val = 532 → blk = s.buf) ∧
      ∀ (k : Nat) (h : k < 532),
        blk[k] = if k < s.wcnt.val then s.buf[k] else Config.freeByte s.draws k

/-- The store with a disk wired: in the block named by ADDR the bytes collected read back as written and the
bytes from WCNT on are free values; every byte of every other block reads as before. -/
def Obligations.DiskWriteChangesOneBlock : Prop :=
  ∀ (s : State) (m : Memory) (i : Instr), s.running → s.lnCmd = false → s.ts = .getWrittenData →
    s.sigma = .disk m → Memory.wf m → s.addr ≠ 0xFFFFFE → s.addr ≠ 0xFFFFFF →
    i = .cmdA ∨ i = .naPerform →
    ∃ t, exec i s = .next t ∧
      ∀ (a : BlockAddr) (k : Fin 532),
        storeByte t.sigma a k =
          if a = s.addr then (if k.val < s.wcnt.val then s.buf[k] else Config.freeByte s.draws k.val)
          else storeByte s.sigma a k

/-- No event but the COMMAND rise in GetWrittenData at an address that is not reserved changes the BlockStore:
after every other event every byte of the address space reads as before. -/
def Obligations.OnlyTheStoreChangesTheBlockStore : Prop :=
  ∀ (i : Instr) (s t : State), exec i s = .next t →
    ¬ (i.event = .cmdA ∧ s.ts = .getWrittenData ∧ s.halt = false ∧
        s.addr ≠ 0xFFFFFE ∧ s.addr ≠ 0xFFFFFF) →
    t.sigma = s.sigma ∧
    ∀ (a : BlockAddr) (k : Fin 532), storeByte t.sigma a k = storeByte s.sigma a k

/-- CMD.A where no rule takes it is a fatal TransactionOrderViolation: no code is queued and BUSY stays. -/
def Obligations.RiseElsewhereIsFatal : Prop :=
  ∀ s : State, s.running → s.lnCmd = false →
    s.ts ∈ ([.startTransaction, .handshakeTransaction, .finishHandshake, .getCommand, .getAddress,
      .getReadRetryCount, .getReadSparingThreshold, .startReadTransaction, .handshakeReadTransaction,
      .finishReadHandshake, .handleReadStatus, .startWriteTransaction, .startWriteVerifyTransaction,
      .handshakeWriteTransaction, .finishWriteHandshake, .startStatusTransaction,
      .handshakeStatusTransaction, .finishStatusHandshake, .handleWriteStatus] :
      List TransactionState) →
    exec .cmdA s = .next (raise (.transactionOrderViolation .cmdA s.ts none) { s with lnCmd := true })

/-- A next-action instruction is the COMMAND rise, but that in a phase whose rise queues another code it is
refused: the model's choice (log entry 8). -/
def Obligations.NextActionIsTheRiseThatQueuesIt : Prop :=
  ∀ (s : State) (i : Instr) (c : Byte), nextActionCode i = some c →
    (s.halt = true → exec i s = exec .cmdA s) ∧
    (riseTarget s.ts = none → exec i s = exec .cmdA s) ∧
    ∀ (d : Byte) (start : TransactionState), riseTarget s.ts = some (d, start) →
      (d = c → exec i s = exec .cmdA s) ∧
      (d ≠ c → s.halt = false → exec i s = .refused (.codeNotInPhase c))

/-- CMD.D in AwaitingCommand is legal: it lowers the line and deasserts BUSY, which changes nothing more when
BUSY is already 0. -/
def Obligations.FallInAwaitingCommandHasNoEffect : Prop :=
  ∀ s : State, s.running → s.lnCmd = true → s.ts = .awaitingCommand →
    (s.busy = false → exec .cmdD s = .next { s with lnCmd := false }) ∧
    (s.busy = true →
      exec .cmdD s = .next { s with lnCmd := false, busy := false, outputs := s.outputs ++ [.busy false] })

/-- CMD.D in the four Finish states deasserts BUSY and enters the next phase; the read queues the status word
and the block, the write clears WCNT, the status handshake queues the status word. -/
def Obligations.FallEndsTheHandshake : Prop :=
  ∀ s : State, s.running → s.lnCmd = true →
    (s.ts = .finishHandshake →
      exec .cmdD s = .next { s with
        lnCmd := false, busy := false, ts := .getCommand
        outputs := s.outputs ++ (if s.busy then [.busy false] else []) }) ∧
    (s.ts = .finishReadHandshake →
      exec .cmdD s = .next { s with
        lnCmd := false, busy := false, ts := .handleReadStatus
        oq := s.oq ++ [0x00, 0x00, 0x00, 0x00] ++ s.buf.toList
        outputs := s.outputs ++ (if s.busy then [.busy false] else []) }) ∧
    (s.ts = .finishWriteHandshake →
      exec .cmdD s = .next { s with
        lnCmd := false, busy := false, ts := .getWrittenData, wcnt := 0
        outputs := s.outputs ++ (if s.busy then [.busy false] else []) }) ∧
    (s.ts = .finishStatusHandshake →
      exec .cmdD s = .next { s with
        lnCmd := false, busy := false, ts := .handleWriteStatus
        oq := s.oq ++ [0x00, 0x00, 0x00, 0x00]
        outputs := s.outputs ++ (if s.busy then [.busy false] else []) })

/-- CMD.D where no rule takes it is a fatal TransactionOrderViolation. -/
def Obligations.FallElsewhereIsFatal : Prop :=
  ∀ s : State, s.running → s.lnCmd = true →
    s.ts ∈ ([.startTransaction, .handshakeTransaction, .getCommand, .getAddress, .getReadRetryCount,
      .getReadSparingThreshold, .awaitingReadGoahead, .startReadTransaction, .handshakeReadTransaction,
      .handleReadStatus, .handleReadData, .awaitingWriteGoahead, .awaitingWriteVerifyGoahead,
      .startWriteTransaction, .startWriteVerifyTransaction, .handshakeWriteTransaction, .getWrittenData,
      .awaitingStatusGoahead, .startStatusTransaction, .handshakeStatusTransaction, .handleWriteStatus] :
      List TransactionState) →
    exec .cmdD s = .next (raise (.transactionOrderViolation .cmdD s.ts none) { s with lnCmd := false })

/-- The ten events of a handshake, from each of the four go-ahead states: the host reads the next-action code,
BUSY is up from the rise to the fall, and the next phase is entered with its queue. -/
def Obligations.HandshakeSequenceEntersTheNextPhase : Prop :=
  ∀ s : State, s.running → s.bs = .idle → s.lnStrobe = false → s.lnCmd = false → s.busy = false →
    s.oq = [] →
    ∀ p ∈ ([(.awaitingCommand, 0x01, .getCommand), (.awaitingReadGoahead, 0x02, .handleReadStatus),
        (.awaitingWriteGoahead, 0x03, .getWrittenData),
        (.awaitingWriteVerifyGoahead, 0x04, .getWrittenData)] :
        List (TransactionState × Byte × TransactionState)),
      s.ts = p.1 →
      runEvents Machine.handshake s = .next { s with
        ts := p.2.2, dir := .hostWrite, rdByte := p.2.1
        outputs := s.outputs ++ [.busy true, .busByte p.2.1, .busy false]
        oq := if s.ts = .awaitingReadGoahead then [0x00, 0x00, 0x00, 0x00] ++ s.buf.toList else []
        wcnt := if p.2.2 = .getWrittenData then 0 else s.wcnt }

/-- 536 byte reads after the read handshake return the four status bytes and then the block, byte 0 first, and
end the transaction in AwaitingCommand. -/
def Obligations.ReadDeliversTheStatusThenTheBlock : Prop :=
  ∀ s : State, s.running → s.bs = .idle → s.dir = .hostRead → s.lnStrobe = false →
    s.ts = .handleReadStatus → s.oq = [0x00, 0x00, 0x00, 0x00] ++ s.buf.toList →
    ∃ t, runEvents (getBytes 536) s = .next t ∧
      t.outputs = s.outputs ++ ([0x00, 0x00, 0x00, 0x00] ++ s.buf.toList).map Output.busByte ∧
      t = { s with
        ts := .awaitingCommand, cmdv := false, oq := [], rdByte := s.buf[531], outputs := t.outputs }

/-! ### The store, the metadata block, the status word -/

/-- The default BlockStore answers the 0..255 pattern for every address and discards writes. -/
def Obligations.DefaultStoreAnswersThePattern : Prop :=
  ∀ (a : BlockAddr) (blk : Block),
    (∀ (i : Nat) (h : i < 532), ((storeRead .pattern a)[i]).toNat = i % 256) ∧
    storeWrite .pattern a blk = .pattern

/-- The metadata block begins with the 13 bytes of the device name; then come the fields of the source, in its
order and inside the 532 bytes: the block count is P_CAPACITY (1 to 0xFFFFFE), the bytes per block are 532, the
list of bad blocks is all 0xFF. Their places and the byte order are open; that the two are binary numbers whose
fields hold them whole is the model's choice (log entry 15). -/
def Obligations.MetadataBlockBeginsWithTheName : Prop :=
  metaBlock.toList.take 13 =
    [0x50, 0x52, 0x4F, 0x46, 0x49, 0x4C, 0x45, 0x20, 0x20, 0x20, 0x20, 0x20, 0x20] ∧
  metaInOrder metaPlace ∧
  (∀ f, (metaFieldBytes f).length = (metaPlace f).width) ∧
  metaNumber (metaFieldBytes .blockCount) = Config.capacity ∧
  (1 ≤ Config.capacity ∧ Config.capacity ≤ 0xFFFFFE) ∧
  metaNumber (metaFieldBytes .bytesPerBlock) = 532 ∧
  ∀ b ∈ metaFieldBytes .badBlockList, b = 0xFF

/-- The status word is 00 00 00 00, so that every flag is 0 wherever its bit stands, and the retry count is 0. -/
def Obligations.StatusWordIsAllZero : Prop :=
  statusWord.toList = [0x00, 0x00, 0x00, 0x00] ∧ (∀ f : StatusFlag, flagValue statusWord f = false) ∧
  readErrorRetryCount statusWord = 0

/-! ### Invariants and whole-machine rules -/

/-- Every step keeps the sequencer's invariants. -/
def Obligations.EveryStepKeepsTheInvariants : Prop :=
  ∀ s t : State, SequencerInv s → step s = .next t → SequencerInv t

/-- The state at power-on meets the invariants. -/
def Obligations.ResetMeetsTheInvariants : Prop := SequencerInv State.reset

/-- From a state that meets the invariants no step faults. -/
def Obligations.NoStepFaultsUnderTheInvariants : Prop :=
  ∀ (s : State) (f : Fault), SequencerInv s → step s ≠ .fault f

/-- Every step keeps the canonical form of the BlockStore's contents. -/
def Obligations.EveryStepKeepsTheStoreCanonical : Prop :=
  ∀ s t : State, s.sigma.wf → step s = .next t → t.sigma.wf

/-- While the machine is not halted BS is Idle exactly when STROBE is low, if it was so before; RST.A taken with
STROBE low makes it so. -/
def Obligations.StrobeLevelMatchesByteState : Prop :=
  ∀ (i : Instr) (s t : State), exec i s = .next t → t.halt = false →
    (i ≠ .rstA → strobeMatches s → strobeMatches t) ∧
    (i = .rstA → s.lnStrobe = false → strobeMatches t)

/-- The retry count and the sparing threshold are advisory: two states that differ in nothing else have
outcomes that differ in nothing else. -/
def Obligations.AdvisoryBytesAreNeverRead : Prop :=
  ∀ (i : Instr) (s u : State), s.withoutAdvisory = u.withoutAdvisory →
    mapOutcome State.withoutAdvisory (exec i s) = mapOutcome State.withoutAdvisory (exec i u)
end

