-- ==== Sys2Proof/Laws/Memory.lean ====
section
/-! SUPPORT. Laws of the BlockStore as memory: read after write, every other byte kept, and the canonical
form kept by every write. -/

namespace Sys2Proof.Machine

/-- Byte `i` of a block built byte by byte. -/
@[simp] theorem blockOf_getElem (f : Nat → Byte) (i : Nat) (h : i < 532) : (blockOf f)[i] = f i := by
  simp [blockOf]

/-- Two blocks are equal when their bytes are. -/
theorem block_ext {b d : Block} (h : ∀ (i : Nat) (hi : i < 532), b[i] = d[i]) : b = d :=
  Vector.ext h

/-- Byte addresses of different bytes differ. -/
theorem byteAddr_inj {a b : BlockAddr} {i j : Nat} (hi : i < 532) (hj : j < 532) :
    byteAddr a i = byteAddr b j ↔ a = b ∧ i = j := by
  unfold byteAddr
  constructor
  · intro h
    have : a.toNat = b.toNat ∧ i = j := by omega
    exact ⟨BitVec.eq_of_toNat_eq this.1, this.2⟩
  · rintro ⟨rfl, rfl⟩
    rfl

/-- Every byte address is inside the address space. -/
theorem byteAddr_lt (a : BlockAddr) {i : Nat} (hi : i < 532) : byteAddr a i < memoryBytes := by
  have := a.isLt
  unfold byteAddr memoryBytes
  omega

/-- An unlisted byte of a block reads as its index modulo 256 (R63). -/
theorem unlistedByte_byteAddr (a : BlockAddr) {i : Nat} (hi : i < 532) :
    unlistedByte (byteAddr a i) = BitVec.ofNat 8 i := by
  unfold unlistedByte byteAddr
  congr 1
  omega

/-- An address below every listed one reads as unlisted. -/
theorem memGet_of_lt {m : Memory} {a : Nat} (h : ∀ c ∈ m, a < c.1) : memGet m a = unlistedByte a := by
  induction m with
  | nil => rfl
  | cons c m ih =>
    have hc : ¬ c.1 = a := by have := h c (by simp); omega
    simp only [memGet, hc, if_false]
    exact ih fun d hd => h d (by simp [hd])

/-- Reading after writing one byte. -/
theorem memGet_memSet {m : Memory} (hm : m.Pairwise fun c d => c.1 < d.1) (a x : Nat) (b : Byte) :
    memGet (memSet m a b) x = if x = a then b else memGet m x := by
  induction m with
  | nil =>
    by_cases hb : b = unlistedByte a <;> by_cases hx : x = a <;>
      simp [memSet, memGet, hb, hx, eq_comm (a := a)]
  | cons c m ih =>
    obtain ⟨k, v⟩ := c
    have hk : ∀ d ∈ m, k < d.1 := fun d hd => (List.pairwise_cons.1 hm).1 d hd
    have ih := ih (List.pairwise_cons.1 hm).2
    rcases Nat.lt_trichotomy a k with h | h | h
    · have low : memGet ((k, v) :: m) a = unlistedByte a := by
        apply memGet_of_lt
        intro d hd
        rcases List.mem_cons.1 hd with rfl | hd
        · exact h
        · have := hk d hd
          omega
      by_cases hb : b = unlistedByte a
      · by_cases hx : x = a
        · subst hx; simp only [memSet, h, hb, if_true, low]
        · simp only [memSet, h, hb, if_true, hx, if_false]
      · by_cases hx : x = a
        · subst hx; simp only [memSet, h, hb, if_true, if_false, memGet]
        · have hx' : ¬ a = x := fun e => hx e.symm
          simp [memSet, memGet, h, hb, hx, hx']
    · subst h
      have low : memGet m a = unlistedByte a := memGet_of_lt hk
      by_cases hb : b = unlistedByte a
      · by_cases hx : x = a
        · subst hx; simp [memSet, hb, low]
        · have hx' : ¬ a = x := fun e => hx e.symm
          simp [memSet, memGet, hb, hx, hx']
      · by_cases hx : x = a
        · subst hx; simp [memSet, memGet, hb]
        · have hx' : ¬ a = x := fun e => hx e.symm
          simp [memSet, memGet, hb, hx, hx']
    · have h1 : ¬ a < k := by omega
      have h2 : ¬ a = k := by omega
      simp only [memSet, h1, h2, if_false, memGet, ih]
      by_cases hx : k = x
      · have : ¬ x = a := by omega
        simp [hx, this]
      · simp [hx]

/-- Every cell after a write is the one written or was there before. -/
theorem mem_memSet {m : Memory} {a : Nat} {b : Byte} {c : Host.Cell} (h : c ∈ memSet m a b) :
    (c = (a, b) ∧ b ≠ unlistedByte a) ∨ c ∈ m := by
  induction m with
  | nil =>
    by_cases hb : b = unlistedByte a <;> simp_all [memSet]
  | cons d m ih =>
    obtain ⟨k, v⟩ := d
    unfold memSet at h
    split at h
    · split at h
      · exact .inr h
      · rcases List.mem_cons.1 h with rfl | h
        · exact .inl ⟨rfl, ‹_›⟩
        · exact .inr h
    · split at h
      · split at h
        · exact .inr (List.mem_cons_of_mem _ h)
        · rcases List.mem_cons.1 h with rfl | h
          · exact .inl ⟨rfl, ‹_›⟩
          · exact .inr (List.mem_cons_of_mem _ h)
      · rcases List.mem_cons.1 h with rfl | h
        · exact .inr (by simp)
        · exact (ih h).imp_right (List.mem_cons_of_mem _)

/-- The order of the cells is kept by a write. -/
theorem memSet_sorted {m : Memory} (hm : m.Pairwise fun c d => c.1 < d.1) (a : Nat) (b : Byte) :
    (memSet m a b).Pairwise fun c d => c.1 < d.1 := by
  induction m with
  | nil => by_cases hb : b = unlistedByte a <;> simp [memSet, hb]
  | cons c m ih =>
    obtain ⟨k, v⟩ := c
    have hk := (List.pairwise_cons.1 hm).1
    have hm' := (List.pairwise_cons.1 hm).2
    unfold memSet
    split
    · split
      · exact hm
      · refine List.pairwise_cons.2 ⟨fun d hd => ?_, hm⟩
        rcases List.mem_cons.1 hd with rfl | hd
        · assumption
        · have := hk d hd
          simp only at this ⊢
          omega
    · split
      · split
        · exact hm'
        · refine List.pairwise_cons.2 ⟨fun d hd => ?_, hm'⟩
          have := hk d hd
          simp only at this ⊢
          omega
      · refine List.pairwise_cons.2 ⟨fun d hd => ?_, ih hm'⟩
        rcases mem_memSet hd with ⟨rfl, _⟩ | hd
        · simp only
          omega
        · exact hk d hd

/-- A write inside the address space keeps the canonical form. -/
theorem memSet_wf {m : Memory} (hm : Memory.wf m) {a : Nat} (ha : a < memoryBytes) (b : Byte) :
    Memory.wf (memSet m a b) := by
  refine ⟨memSet_sorted hm.1 a b, fun c hc => ?_⟩
  rcases mem_memSet hc with ⟨rfl, hb⟩ | hc
  · exact ⟨hb, ha⟩
  · exact hm.2 c hc

/-- Writing the first `n` bytes of a block keeps the canonical form. -/
theorem memWriteBytes_wf {m : Memory} (hm : Memory.wf m) (addr : BlockAddr) (blk : Block) {n : Nat}
    (hn : n ≤ 532) : Memory.wf (memWriteBytes m addr blk n) := by
  induction n generalizing m with
  | zero => exact hm
  | succ n ih => exact ih (memSet_wf hm (byteAddr_lt addr (by omega)) _) (by omega)

/-- Writing a block keeps the canonical form. -/
theorem memWriteBlock_wf {m : Memory} (hm : Memory.wf m) (addr : BlockAddr) (blk : Block) :
    Memory.wf (memWriteBlock m addr blk) := memWriteBytes_wf hm addr blk (by omega)

/-- Every byte after writing the first `n` bytes of a block: those bytes are the block's, the rest as
before. -/
theorem memGet_memWriteBytes {m : Memory} (hm : m.Pairwise fun c d => c.1 < d.1) (addr : BlockAddr)
    (blk : Block) {n : Nat} (hn : n ≤ 532) (a : BlockAddr) {i : Nat} (hi : i < 532) :
    memGet (memWriteBytes m addr blk n) (byteAddr a i) =
      if a = addr ∧ i < n then blk[i] else memGet m (byteAddr a i) := by
  induction n generalizing m with
  | zero => simp [memWriteBytes]
  | succ n ih =>
    rw [memWriteBytes, ih (memSet_sorted hm _ _) (by omega), memGet_memSet hm]
    have hn' : n < 532 := by omega
    by_cases ha : a = addr
    · by_cases hin : i = n
      · subst hin; subst ha
        simp [Vector.getD, hi]
      · have h1 : ¬ byteAddr a i = byteAddr addr n := by
          rw [byteAddr_inj hi hn']; exact fun h => hin h.2
        have h2 : (i < n + 1) = (i < n) := by simp only [eq_iff_iff]; omega
        simp [h1, h2]
    · have h1 : ¬ byteAddr a i = byteAddr addr n := by
        rw [byteAddr_inj hi hn']; exact fun h => ha h.1
      simp [ha, h1]

/-- What a disk answers for byte `i` of a block after a block write (R64). -/
theorem storeByte_disk_write {m : Memory} (hm : Memory.wf m) (addr a : BlockAddr) (blk : Block)
    (i : Fin 532) :
    storeByte (storeWrite (.disk m) addr blk) a i =
      if a = addr then blk[i] else storeByte (.disk m) a i := by
  simp [storeByte, storeWrite, storeRead, memReadBlock, memWriteBlock,
    memGet_memWriteBytes hm.1 addr blk (Nat.le_refl 532) a i.isLt]

/-- The default store discards writes (R63). -/
@[simp] theorem storeWrite_pattern (addr : BlockAddr) (blk : Block) :
    storeWrite .pattern addr blk = .pattern := rfl

/-- Every block write keeps the canonical form of the BlockStore's contents. -/
theorem storeWrite_wf {sigma : BlockStore} (h : sigma.wf) (addr : BlockAddr) (blk : Block) :
    (storeWrite sigma addr blk).wf := by
  cases sigma with
  | pattern => trivial
  | disk m => exact memWriteBlock_wf (m := m) h addr blk
  | external n => trivial

/-! ### The metadata block -/

/-- P_CAPACITY is in its range (R7). -/
theorem capacity_range : 1 ≤ Config.capacity ∧ Config.capacity ≤ 0xFFFFFE := by
  have := Config.capacityLessOne.isLt
  unfold Config.capacity
  omega

/-- Places as R215 asks for them exist. -/
theorem suggestedPlace_inOrder : metaInOrder suggestedPlace := by
  have := capacity_range
  simp only [metaInOrder, suggestedPlace, Config.blockSize]
  omega

/-- The fields of the metadata block stand as R215 says. -/
theorem metaPlace_inOrder : metaInOrder metaPlace := by
  by_cases h : metaInOrder configuredPlace
  · rw [show metaPlace = configuredPlace from funext fun f => if_pos h]
    exact h
  · rw [show metaPlace = suggestedPlace from funext fun f => if_neg h]
    exact suggestedPlace_inOrder

/-- The fields in their order are the only ones that can hold a byte: no byte is in two of them. -/
theorem metaFieldAt_of_holds {f : Config.MetaField} {i : Nat} (h : (metaPlace f).holds i = true) :
    metaFieldAt i = some f := by
  have order := metaPlace_inOrder
  simp only [MetaPlace.holds, Bool.and_eq_true, decide_eq_true_eq] at h
  cases f <;>
    (simp only [metaFieldAt, MetaPlace.holds, List.find?_cons]
     repeat' split
     all_goals
       first
       | rfl
       | (simp only [Bool.and_eq_true, Bool.and_eq_false_iff, decide_eq_true_eq, decide_eq_false_iff_not] at *
          omega))

/-- Every field begins after the name and ends inside the block. -/
theorem metaPlace_bounds (f : Config.MetaField) :
    13 ≤ (metaPlace f).first ∧ (metaPlace f).first + (metaPlace f).width ≤ 532 := by
  have order := metaPlace_inOrder
  cases f <;> omega

/-- A byte of the metadata block inside a field is that field's. -/
theorem metaBlock_field {f : Config.MetaField} {i : Nat} (h : (metaPlace f).holds i = true) (hi : i < 532) :
    metaBlock[i] = metaFieldByte f i := by
  have bounds := metaPlace_bounds f
  have inside := h
  simp only [MetaPlace.holds, Bool.and_eq_true, decide_eq_true_eq] at inside
  have afterName : ¬ i < 13 := by omega
  simp only [metaBlock, blockOf_getElem, afterName, if_false, metaFieldAt_of_holds h]

end Sys2Proof.Machine
end

