-- ==== Sys2Proof/Laws/State.lean ====
section
/-! SUPPORT. What each shared update of the state leaves in each field: one lemma per field per update. -/

namespace Sys2Proof.Machine

variable (s : State)

/-! ### `setBusy` -/

@[simp] theorem setBusy_ts (l : Bool) : (setBusy l s).ts = s.ts := rfl
@[simp] theorem setBusy_bs (l : Bool) : (setBusy l s).bs = s.bs := rfl
@[simp] theorem setBusy_dir (l : Bool) : (setBusy l s).dir = s.dir := rfl
@[simp] theorem setBusy_cmdv (l : Bool) : (setBusy l s).cmdv = s.cmdv := rfl
@[simp] theorem setBusy_cmdb (l : Bool) : (setBusy l s).cmdb = s.cmdb := rfl
@[simp] theorem setBusy_addr (l : Bool) : (setBusy l s).addr = s.addr := rfl
@[simp] theorem setBusy_acnt (l : Bool) : (setBusy l s).acnt = s.acnt := rfl
@[simp] theorem setBusy_retry (l : Bool) : (setBusy l s).retry = s.retry := rfl
@[simp] theorem setBusy_spare (l : Bool) : (setBusy l s).spare = s.spare := rfl
@[simp] theorem setBusy_buf (l : Bool) : (setBusy l s).buf = s.buf := rfl
@[simp] theorem setBusy_wcnt (l : Bool) : (setBusy l s).wcnt = s.wcnt := rfl
@[simp] theorem setBusy_oq (l : Bool) : (setBusy l s).oq = s.oq := rfl
@[simp] theorem setBusy_busy (l : Bool) : (setBusy l s).busy = l := rfl
@[simp] theorem setBusy_err (l : Bool) : (setBusy l s).err = s.err := rfl
@[simp] theorem setBusy_halt (l : Bool) : (setBusy l s).halt = s.halt := rfl
@[simp] theorem setBusy_lnReset (l : Bool) : (setBusy l s).lnReset = s.lnReset := rfl
@[simp] theorem setBusy_lnStrobe (l : Bool) : (setBusy l s).lnStrobe = s.lnStrobe := rfl
@[simp] theorem setBusy_lnCmd (l : Bool) : (setBusy l s).lnCmd = s.lnCmd := rfl
@[simp] theorem setBusy_sigma (l : Bool) : (setBusy l s).sigma = s.sigma := rfl
@[simp] theorem setBusy_stim (l : Bool) : (setBusy l s).stim = s.stim := rfl
@[simp] theorem setBusy_outputs (l : Bool) :
    (setBusy l s).outputs = s.outputs ++ busyNotice l s := rfl
@[simp] theorem setBusy_rdByte (l : Bool) : (setBusy l s).rdByte = s.rdByte := rfl
@[simp] theorem setBusy_draws (l : Bool) : (setBusy l s).draws = s.draws := rfl

/-! ### `raise` -/

@[simp] theorem raise_ts (r : Report) : (raise r s).ts = s.ts := rfl
@[simp] theorem raise_bs (r : Report) : (raise r s).bs = s.bs := rfl
@[simp] theorem raise_dir (r : Report) : (raise r s).dir = s.dir := rfl
@[simp] theorem raise_cmdv (r : Report) : (raise r s).cmdv = s.cmdv := rfl
@[simp] theorem raise_cmdb (r : Report) : (raise r s).cmdb = s.cmdb := rfl
@[simp] theorem raise_addr (r : Report) : (raise r s).addr = s.addr := rfl
@[simp] theorem raise_acnt (r : Report) : (raise r s).acnt = s.acnt := rfl
@[simp] theorem raise_retry (r : Report) : (raise r s).retry = s.retry := rfl
@[simp] theorem raise_spare (r : Report) : (raise r s).spare = s.spare := rfl
@[simp] theorem raise_buf (r : Report) : (raise r s).buf = s.buf := rfl
@[simp] theorem raise_wcnt (r : Report) : (raise r s).wcnt = s.wcnt := rfl
@[simp] theorem raise_oq (r : Report) : (raise r s).oq = s.oq := rfl
@[simp] theorem raise_busy (r : Report) : (raise r s).busy = s.busy := rfl
@[simp] theorem raise_err (r : Report) : (raise r s).err = latchError s.err (reportCode r) := rfl
@[simp] theorem raise_halt (r : Report) : (raise r s).halt = (s.halt || reportFatal r) := rfl
@[simp] theorem raise_lnReset (r : Report) : (raise r s).lnReset = s.lnReset := rfl
@[simp] theorem raise_lnStrobe (r : Report) : (raise r s).lnStrobe = s.lnStrobe := rfl
@[simp] theorem raise_lnCmd (r : Report) : (raise r s).lnCmd = s.lnCmd := rfl
@[simp] theorem raise_sigma (r : Report) : (raise r s).sigma = s.sigma := rfl
@[simp] theorem raise_stim (r : Report) : (raise r s).stim = s.stim := rfl
@[simp] theorem raise_outputs (r : Report) : (raise r s).outputs = s.outputs ++ [.report r] := rfl
@[simp] theorem raise_rdByte (r : Report) : (raise r s).rdByte = s.rdByte := rfl
@[simp] theorem raise_draws (r : Report) : (raise r s).draws = s.draws := rfl

/-! ### `enterAwaitingCommand` -/

@[simp] theorem enterAwaitingCommand_ts : (enterAwaitingCommand s).ts = .awaitingCommand := rfl
@[simp] theorem enterAwaitingCommand_bs : (enterAwaitingCommand s).bs = s.bs := rfl
@[simp] theorem enterAwaitingCommand_dir : (enterAwaitingCommand s).dir = s.dir := rfl
@[simp] theorem enterAwaitingCommand_cmdv : (enterAwaitingCommand s).cmdv = false := rfl
@[simp] theorem enterAwaitingCommand_cmdb : (enterAwaitingCommand s).cmdb = s.cmdb := rfl
@[simp] theorem enterAwaitingCommand_addr : (enterAwaitingCommand s).addr = s.addr := rfl
@[simp] theorem enterAwaitingCommand_acnt : (enterAwaitingCommand s).acnt = s.acnt := rfl
@[simp] theorem enterAwaitingCommand_retry : (enterAwaitingCommand s).retry = s.retry := rfl
@[simp] theorem enterAwaitingCommand_spare : (enterAwaitingCommand s).spare = s.spare := rfl
@[simp] theorem enterAwaitingCommand_buf : (enterAwaitingCommand s).buf = s.buf := rfl
@[simp] theorem enterAwaitingCommand_wcnt : (enterAwaitingCommand s).wcnt = s.wcnt := rfl
@[simp] theorem enterAwaitingCommand_oq : (enterAwaitingCommand s).oq = s.oq := rfl
@[simp] theorem enterAwaitingCommand_busy : (enterAwaitingCommand s).busy = s.busy := rfl
@[simp] theorem enterAwaitingCommand_err : (enterAwaitingCommand s).err = s.err := rfl
@[simp] theorem enterAwaitingCommand_halt : (enterAwaitingCommand s).halt = s.halt := rfl
@[simp] theorem enterAwaitingCommand_lnReset : (enterAwaitingCommand s).lnReset = s.lnReset := rfl
@[simp] theorem enterAwaitingCommand_lnStrobe :
    (enterAwaitingCommand s).lnStrobe = s.lnStrobe := rfl
@[simp] theorem enterAwaitingCommand_lnCmd : (enterAwaitingCommand s).lnCmd = s.lnCmd := rfl
@[simp] theorem enterAwaitingCommand_sigma : (enterAwaitingCommand s).sigma = s.sigma := rfl
@[simp] theorem enterAwaitingCommand_stim : (enterAwaitingCommand s).stim = s.stim := rfl
@[simp] theorem enterAwaitingCommand_outputs : (enterAwaitingCommand s).outputs = s.outputs := rfl
@[simp] theorem enterAwaitingCommand_rdByte : (enterAwaitingCommand s).rdByte = s.rdByte := rfl
@[simp] theorem enterAwaitingCommand_draws : (enterAwaitingCommand s).draws = s.draws := rfl

/-! ### `clearQueue` -/

@[simp] theorem clearQueue_ts : (clearQueue s).ts = s.ts := rfl
@[simp] theorem clearQueue_bs : (clearQueue s).bs = s.bs := rfl
@[simp] theorem clearQueue_dir : (clearQueue s).dir = s.dir := rfl
@[simp] theorem clearQueue_cmdv : (clearQueue s).cmdv = s.cmdv := rfl
@[simp] theorem clearQueue_cmdb : (clearQueue s).cmdb = s.cmdb := rfl
@[simp] theorem clearQueue_addr : (clearQueue s).addr = s.addr := rfl
@[simp] theorem clearQueue_acnt : (clearQueue s).acnt = s.acnt := rfl
@[simp] theorem clearQueue_retry : (clearQueue s).retry = s.retry := rfl
@[simp] theorem clearQueue_spare : (clearQueue s).spare = s.spare := rfl
@[simp] theorem clearQueue_buf : (clearQueue s).buf = s.buf := rfl
@[simp] theorem clearQueue_wcnt : (clearQueue s).wcnt = s.wcnt := rfl
@[simp] theorem clearQueue_oq : (clearQueue s).oq = [] := rfl
@[simp] theorem clearQueue_busy : (clearQueue s).busy = s.busy := rfl
@[simp] theorem clearQueue_err : (clearQueue s).err = s.err := rfl
@[simp] theorem clearQueue_halt : (clearQueue s).halt = s.halt := rfl
@[simp] theorem clearQueue_lnReset : (clearQueue s).lnReset = s.lnReset := rfl
@[simp] theorem clearQueue_lnStrobe : (clearQueue s).lnStrobe = s.lnStrobe := rfl
@[simp] theorem clearQueue_lnCmd : (clearQueue s).lnCmd = s.lnCmd := rfl
@[simp] theorem clearQueue_sigma : (clearQueue s).sigma = s.sigma := rfl
@[simp] theorem clearQueue_stim : (clearQueue s).stim = s.stim := rfl
@[simp] theorem clearQueue_outputs : (clearQueue s).outputs = s.outputs := rfl
@[simp] theorem clearQueue_rdByte : (clearQueue s).rdByte = s.rdByte := rfl
@[simp] theorem clearQueue_draws : (clearQueue s).draws = s.draws := rfl

/-! ### `pushQueue` -/

@[simp] theorem pushQueue_ts (q : List Byte) : (pushQueue q s).ts = s.ts := rfl
@[simp] theorem pushQueue_bs (q : List Byte) : (pushQueue q s).bs = s.bs := rfl
@[simp] theorem pushQueue_dir (q : List Byte) : (pushQueue q s).dir = s.dir := rfl
@[simp] theorem pushQueue_cmdv (q : List Byte) : (pushQueue q s).cmdv = s.cmdv := rfl
@[simp] theorem pushQueue_cmdb (q : List Byte) : (pushQueue q s).cmdb = s.cmdb := rfl
@[simp] theorem pushQueue_addr (q : List Byte) : (pushQueue q s).addr = s.addr := rfl
@[simp] theorem pushQueue_acnt (q : List Byte) : (pushQueue q s).acnt = s.acnt := rfl
@[simp] theorem pushQueue_retry (q : List Byte) : (pushQueue q s).retry = s.retry := rfl
@[simp] theorem pushQueue_spare (q : List Byte) : (pushQueue q s).spare = s.spare := rfl
@[simp] theorem pushQueue_buf (q : List Byte) : (pushQueue q s).buf = s.buf := rfl
@[simp] theorem pushQueue_wcnt (q : List Byte) : (pushQueue q s).wcnt = s.wcnt := rfl
@[simp] theorem pushQueue_oq (q : List Byte) : (pushQueue q s).oq = s.oq ++ q := rfl
@[simp] theorem pushQueue_busy (q : List Byte) : (pushQueue q s).busy = s.busy := rfl
@[simp] theorem pushQueue_err (q : List Byte) : (pushQueue q s).err = s.err := rfl
@[simp] theorem pushQueue_halt (q : List Byte) : (pushQueue q s).halt = s.halt := rfl
@[simp] theorem pushQueue_lnReset (q : List Byte) : (pushQueue q s).lnReset = s.lnReset := rfl
@[simp] theorem pushQueue_lnStrobe (q : List Byte) : (pushQueue q s).lnStrobe = s.lnStrobe := rfl
@[simp] theorem pushQueue_lnCmd (q : List Byte) : (pushQueue q s).lnCmd = s.lnCmd := rfl
@[simp] theorem pushQueue_sigma (q : List Byte) : (pushQueue q s).sigma = s.sigma := rfl
@[simp] theorem pushQueue_stim (q : List Byte) : (pushQueue q s).stim = s.stim := rfl
@[simp] theorem pushQueue_outputs (q : List Byte) : (pushQueue q s).outputs = s.outputs := rfl
@[simp] theorem pushQueue_rdByte (q : List Byte) : (pushQueue q s).rdByte = s.rdByte := rfl
@[simp] theorem pushQueue_draws (q : List Byte) : (pushQueue q s).draws = s.draws := rfl

/-! ### `ackMismatchAbort` -/

@[simp] theorem ackMismatchAbort_ts (b : Byte) : (ackMismatchAbort b s).ts = .awaitingCommand := rfl
@[simp] theorem ackMismatchAbort_bs (b : Byte) : (ackMismatchAbort b s).bs = s.bs := rfl
@[simp] theorem ackMismatchAbort_dir (b : Byte) : (ackMismatchAbort b s).dir = s.dir := rfl
@[simp] theorem ackMismatchAbort_cmdv (b : Byte) : (ackMismatchAbort b s).cmdv = false := rfl
@[simp] theorem ackMismatchAbort_cmdb (b : Byte) : (ackMismatchAbort b s).cmdb = s.cmdb := rfl
@[simp] theorem ackMismatchAbort_addr (b : Byte) : (ackMismatchAbort b s).addr = s.addr := rfl
@[simp] theorem ackMismatchAbort_acnt (b : Byte) : (ackMismatchAbort b s).acnt = s.acnt := rfl
@[simp] theorem ackMismatchAbort_retry (b : Byte) : (ackMismatchAbort b s).retry = s.retry := rfl
@[simp] theorem ackMismatchAbort_spare (b : Byte) : (ackMismatchAbort b s).spare = s.spare := rfl
@[simp] theorem ackMismatchAbort_buf (b : Byte) : (ackMismatchAbort b s).buf = s.buf := rfl
@[simp] theorem ackMismatchAbort_wcnt (b : Byte) : (ackMismatchAbort b s).wcnt = s.wcnt := rfl
@[simp] theorem ackMismatchAbort_oq (b : Byte) : (ackMismatchAbort b s).oq = [] := rfl
@[simp] theorem ackMismatchAbort_busy (b : Byte) : (ackMismatchAbort b s).busy = false := rfl
@[simp] theorem ackMismatchAbort_err (b : Byte) :
    (ackMismatchAbort b s).err = latchError s.err .ackMismatch := rfl
@[simp] theorem ackMismatchAbort_halt (b : Byte) :
    (ackMismatchAbort b s).halt = (s.halt || false) := rfl
@[simp] theorem ackMismatchAbort_lnReset (b : Byte) :
    (ackMismatchAbort b s).lnReset = s.lnReset := rfl
@[simp] theorem ackMismatchAbort_lnStrobe (b : Byte) :
    (ackMismatchAbort b s).lnStrobe = s.lnStrobe := rfl
@[simp] theorem ackMismatchAbort_lnCmd (b : Byte) : (ackMismatchAbort b s).lnCmd = s.lnCmd := rfl
@[simp] theorem ackMismatchAbort_sigma (b : Byte) : (ackMismatchAbort b s).sigma = s.sigma := rfl
@[simp] theorem ackMismatchAbort_stim (b : Byte) : (ackMismatchAbort b s).stim = s.stim := rfl
@[simp] theorem ackMismatchAbort_outputs (b : Byte) :
    (ackMismatchAbort b s).outputs = s.outputs ++ [.report (.ackMismatch b s.ts)] ++ busyNotice false s := rfl
@[simp] theorem ackMismatchAbort_rdByte (b : Byte) : (ackMismatchAbort b s).rdByte = s.rdByte := rfl
@[simp] theorem ackMismatchAbort_draws (b : Byte) : (ackMismatchAbort b s).draws = s.draws := rfl

/-! ### `resetDevice` -/

@[simp] theorem resetDevice_ts : (resetDevice s).ts = .awaitingCommand := rfl
@[simp] theorem resetDevice_bs : (resetDevice s).bs = .idle := rfl
@[simp] theorem resetDevice_dir : (resetDevice s).dir = s.dir := rfl
@[simp] theorem resetDevice_cmdv : (resetDevice s).cmdv = false := rfl
@[simp] theorem resetDevice_cmdb : (resetDevice s).cmdb = 0 := rfl
@[simp] theorem resetDevice_addr : (resetDevice s).addr = 0 := rfl
@[simp] theorem resetDevice_acnt : (resetDevice s).acnt = 0 := rfl
@[simp] theorem resetDevice_retry : (resetDevice s).retry = 0 := rfl
@[simp] theorem resetDevice_spare : (resetDevice s).spare = 0 := rfl
@[simp] theorem resetDevice_buf : (resetDevice s).buf = freeBlock s.draws := rfl
@[simp] theorem resetDevice_wcnt : (resetDevice s).wcnt = 0 := rfl
@[simp] theorem resetDevice_oq : (resetDevice s).oq = [] := rfl
@[simp] theorem resetDevice_busy : (resetDevice s).busy = false := rfl
@[simp] theorem resetDevice_err : (resetDevice s).err = .noError := rfl
@[simp] theorem resetDevice_halt : (resetDevice s).halt = false := rfl
@[simp] theorem resetDevice_lnReset : (resetDevice s).lnReset = s.lnReset := rfl
@[simp] theorem resetDevice_lnStrobe : (resetDevice s).lnStrobe = s.lnStrobe := rfl
@[simp] theorem resetDevice_lnCmd : (resetDevice s).lnCmd = s.lnCmd := rfl
@[simp] theorem resetDevice_sigma : (resetDevice s).sigma = s.sigma := rfl
@[simp] theorem resetDevice_stim : (resetDevice s).stim = s.stim := rfl
@[simp] theorem resetDevice_outputs :
    (resetDevice s).outputs = s.outputs ++ busyNotice false s := rfl
@[simp] theorem resetDevice_rdByte : (resetDevice s).rdByte = s.rdByte := rfl
@[simp] theorem resetDevice_draws : (resetDevice s).draws = s.draws + 1 := rfl

/-! ### `beginHandshake` -/

@[simp] theorem beginHandshake_ts (c : Byte) (t : TransactionState) :
    (beginHandshake c t s).ts = t := rfl
@[simp] theorem beginHandshake_bs (c : Byte) (t : TransactionState) :
    (beginHandshake c t s).bs = s.bs := rfl
@[simp] theorem beginHandshake_dir (c : Byte) (t : TransactionState) :
    (beginHandshake c t s).dir = s.dir := rfl
@[simp] theorem beginHandshake_cmdv (c : Byte) (t : TransactionState) :
    (beginHandshake c t s).cmdv = s.cmdv := rfl
@[simp] theorem beginHandshake_cmdb (c : Byte) (t : TransactionState) :
    (beginHandshake c t s).cmdb = s.cmdb := rfl
@[simp] theorem beginHandshake_addr (c : Byte) (t : TransactionState) :
    (beginHandshake c t s).addr = s.addr := rfl
@[simp] theorem beginHandshake_acnt (c : Byte) (t : TransactionState) :
    (beginHandshake c t s).acnt = s.acnt := rfl
@[simp] theorem beginHandshake_retry (c : Byte) (t : TransactionState) :
    (beginHandshake c t s).retry = s.retry := rfl
@[simp] theorem beginHandshake_spare (c : Byte) (t : TransactionState) :
    (beginHandshake c t s).spare = s.spare := rfl
@[simp] theorem beginHandshake_buf (c : Byte) (t : TransactionState) :
    (beginHandshake c t s).buf = s.buf := rfl
@[simp] theorem beginHandshake_wcnt (c : Byte) (t : TransactionState) :
    (beginHandshake c t s).wcnt = s.wcnt := rfl
@[simp] theorem beginHandshake_oq (c : Byte) (t : TransactionState) :
    (beginHandshake c t s).oq = s.oq ++ [c] := rfl
@[simp] theorem beginHandshake_busy (c : Byte) (t : TransactionState) :
    (beginHandshake c t s).busy = true := rfl
@[simp] theorem beginHandshake_err (c : Byte) (t : TransactionState) :
    (beginHandshake c t s).err = s.err := rfl
@[simp] theorem beginHandshake_halt (c : Byte) (t : TransactionState) :
    (beginHandshake c t s).halt = s.halt := rfl
@[simp] theorem beginHandshake_lnReset (c : Byte) (t : TransactionState) :
    (beginHandshake c t s).lnReset = s.lnReset := rfl
@[simp] theorem beginHandshake_lnStrobe (c : Byte) (t : TransactionState) :
    (beginHandshake c t s).lnStrobe = s.lnStrobe := rfl
@[simp] theorem beginHandshake_lnCmd (c : Byte) (t : TransactionState) :
    (beginHandshake c t s).lnCmd = s.lnCmd := rfl
@[simp] theorem beginHandshake_sigma (c : Byte) (t : TransactionState) :
    (beginHandshake c t s).sigma = s.sigma := rfl
@[simp] theorem beginHandshake_stim (c : Byte) (t : TransactionState) :
    (beginHandshake c t s).stim = s.stim := rfl
@[simp] theorem beginHandshake_outputs (c : Byte) (t : TransactionState) :
    (beginHandshake c t s).outputs = s.outputs ++ busyNotice true s := rfl
@[simp] theorem beginHandshake_rdByte (c : Byte) (t : TransactionState) :
    (beginHandshake c t s).rdByte = s.rdByte := rfl
@[simp] theorem beginHandshake_draws (c : Byte) (t : TransactionState) :
    (beginHandshake c t s).draws = s.draws := rfl

/-! ### `memWrite` -/

@[simp] theorem memWrite_ts (a : BlockAddr) (blk : Block) : (memWrite a blk s).ts = s.ts := rfl
@[simp] theorem memWrite_bs (a : BlockAddr) (blk : Block) : (memWrite a blk s).bs = s.bs := rfl
@[simp] theorem memWrite_dir (a : BlockAddr) (blk : Block) : (memWrite a blk s).dir = s.dir := rfl
@[simp] theorem memWrite_cmdv (a : BlockAddr) (blk : Block) :
    (memWrite a blk s).cmdv = s.cmdv := rfl
@[simp] theorem memWrite_cmdb (a : BlockAddr) (blk : Block) :
    (memWrite a blk s).cmdb = s.cmdb := rfl
@[simp] theorem memWrite_addr (a : BlockAddr) (blk : Block) :
    (memWrite a blk s).addr = s.addr := rfl
@[simp] theorem memWrite_acnt (a : BlockAddr) (blk : Block) :
    (memWrite a blk s).acnt = s.acnt := rfl
@[simp] theorem memWrite_retry (a : BlockAddr) (blk : Block) :
    (memWrite a blk s).retry = s.retry := rfl
@[simp] theorem memWrite_spare (a : BlockAddr) (blk : Block) :
    (memWrite a blk s).spare = s.spare := rfl
@[simp] theorem memWrite_buf (a : BlockAddr) (blk : Block) : (memWrite a blk s).buf = s.buf := rfl
@[simp] theorem memWrite_wcnt (a : BlockAddr) (blk : Block) :
    (memWrite a blk s).wcnt = s.wcnt := rfl
@[simp] theorem memWrite_oq (a : BlockAddr) (blk : Block) : (memWrite a blk s).oq = s.oq := rfl
@[simp] theorem memWrite_busy (a : BlockAddr) (blk : Block) :
    (memWrite a blk s).busy = s.busy := rfl
@[simp] theorem memWrite_err (a : BlockAddr) (blk : Block) : (memWrite a blk s).err = s.err := rfl
@[simp] theorem memWrite_halt (a : BlockAddr) (blk : Block) :
    (memWrite a blk s).halt = s.halt := rfl
@[simp] theorem memWrite_lnReset (a : BlockAddr) (blk : Block) :
    (memWrite a blk s).lnReset = s.lnReset := rfl
@[simp] theorem memWrite_lnStrobe (a : BlockAddr) (blk : Block) :
    (memWrite a blk s).lnStrobe = s.lnStrobe := rfl
@[simp] theorem memWrite_lnCmd (a : BlockAddr) (blk : Block) :
    (memWrite a blk s).lnCmd = s.lnCmd := rfl
@[simp] theorem memWrite_sigma (a : BlockAddr) (blk : Block) :
    (memWrite a blk s).sigma = if isReserved a then s.sigma else storeWrite s.sigma a blk := rfl
@[simp] theorem memWrite_stim (a : BlockAddr) (blk : Block) :
    (memWrite a blk s).stim = s.stim := rfl
@[simp] theorem memWrite_outputs (a : BlockAddr) (blk : Block) :
    (memWrite a blk s).outputs = s.outputs ++ writeNotice a blk := rfl
@[simp] theorem memWrite_rdByte (a : BlockAddr) (blk : Block) :
    (memWrite a blk s).rdByte = s.rdByte := rfl
@[simp] theorem memWrite_draws (a : BlockAddr) (blk : Block) :
    (memWrite a blk s).draws = s.draws := rfl

/-! ### `storeCollected` -/

@[simp] theorem storeCollected_ts : (storeCollected s).ts = .awaitingStatusGoahead := rfl
@[simp] theorem storeCollected_bs : (storeCollected s).bs = s.bs := rfl
@[simp] theorem storeCollected_dir : (storeCollected s).dir = s.dir := rfl
@[simp] theorem storeCollected_cmdv : (storeCollected s).cmdv = s.cmdv := rfl
@[simp] theorem storeCollected_cmdb : (storeCollected s).cmdb = s.cmdb := rfl
@[simp] theorem storeCollected_addr : (storeCollected s).addr = s.addr := rfl
@[simp] theorem storeCollected_acnt : (storeCollected s).acnt = s.acnt := rfl
@[simp] theorem storeCollected_retry : (storeCollected s).retry = s.retry := rfl
@[simp] theorem storeCollected_spare : (storeCollected s).spare = s.spare := rfl
@[simp] theorem storeCollected_buf : (storeCollected s).buf = collectedBlock s := rfl
@[simp] theorem storeCollected_wcnt : (storeCollected s).wcnt = s.wcnt := rfl
@[simp] theorem storeCollected_oq : (storeCollected s).oq = s.oq := rfl
@[simp] theorem storeCollected_busy : (storeCollected s).busy = s.busy := rfl
@[simp] theorem storeCollected_err : (storeCollected s).err = s.err := rfl
@[simp] theorem storeCollected_halt : (storeCollected s).halt = s.halt := rfl
@[simp] theorem storeCollected_lnReset : (storeCollected s).lnReset = s.lnReset := rfl
@[simp] theorem storeCollected_lnStrobe : (storeCollected s).lnStrobe = s.lnStrobe := rfl
@[simp] theorem storeCollected_lnCmd : (storeCollected s).lnCmd = s.lnCmd := rfl
@[simp] theorem storeCollected_sigma :
    (storeCollected s).sigma = if isReserved s.addr then s.sigma else storeWrite s.sigma s.addr (collectedBlock s) := rfl
@[simp] theorem storeCollected_stim : (storeCollected s).stim = s.stim := rfl
@[simp] theorem storeCollected_outputs :
    (storeCollected s).outputs = s.outputs ++ writeNotice s.addr (collectedBlock s) := rfl
@[simp] theorem storeCollected_rdByte : (storeCollected s).rdByte = s.rdByte := rfl
@[simp] theorem storeCollected_draws : (storeCollected s).draws = s.draws + 1 := rfl

/-! ### `readUnspecified` -/

@[simp] theorem readUnspecified_ts : (readUnspecified s).ts = s.ts := rfl
@[simp] theorem readUnspecified_bs : (readUnspecified s).bs = s.bs := rfl
@[simp] theorem readUnspecified_dir : (readUnspecified s).dir = s.dir := rfl
@[simp] theorem readUnspecified_cmdv : (readUnspecified s).cmdv = s.cmdv := rfl
@[simp] theorem readUnspecified_cmdb : (readUnspecified s).cmdb = s.cmdb := rfl
@[simp] theorem readUnspecified_addr : (readUnspecified s).addr = s.addr := rfl
@[simp] theorem readUnspecified_acnt : (readUnspecified s).acnt = s.acnt := rfl
@[simp] theorem readUnspecified_retry : (readUnspecified s).retry = s.retry := rfl
@[simp] theorem readUnspecified_spare : (readUnspecified s).spare = s.spare := rfl
@[simp] theorem readUnspecified_buf : (readUnspecified s).buf = s.buf := rfl
@[simp] theorem readUnspecified_wcnt : (readUnspecified s).wcnt = s.wcnt := rfl
@[simp] theorem readUnspecified_oq : (readUnspecified s).oq = s.oq := rfl
@[simp] theorem readUnspecified_busy : (readUnspecified s).busy = s.busy := rfl
@[simp] theorem readUnspecified_err : (readUnspecified s).err = s.err := rfl
@[simp] theorem readUnspecified_halt : (readUnspecified s).halt = s.halt := rfl
@[simp] theorem readUnspecified_lnReset : (readUnspecified s).lnReset = s.lnReset := rfl
@[simp] theorem readUnspecified_lnStrobe : (readUnspecified s).lnStrobe = s.lnStrobe := rfl
@[simp] theorem readUnspecified_lnCmd : (readUnspecified s).lnCmd = s.lnCmd := rfl
@[simp] theorem readUnspecified_sigma : (readUnspecified s).sigma = s.sigma := rfl
@[simp] theorem readUnspecified_stim : (readUnspecified s).stim = s.stim := rfl
@[simp] theorem readUnspecified_outputs : (readUnspecified s).outputs = s.outputs := rfl
@[simp] theorem readUnspecified_rdByte :
    (readUnspecified s).rdByte = Config.freeByte s.draws 0 := rfl
@[simp] theorem readUnspecified_draws : (readUnspecified s).draws = s.draws + 1 := rfl

/-! ### `takeCommand` -/

@[simp] theorem takeCommand_ts (b : Byte) : (takeCommand b s).ts = .getAddress := rfl
@[simp] theorem takeCommand_bs (b : Byte) : (takeCommand b s).bs = s.bs := rfl
@[simp] theorem takeCommand_dir (b : Byte) : (takeCommand b s).dir = s.dir := rfl
@[simp] theorem takeCommand_cmdv (b : Byte) : (takeCommand b s).cmdv = true := rfl
@[simp] theorem takeCommand_cmdb (b : Byte) : (takeCommand b s).cmdb = b := rfl
@[simp] theorem takeCommand_addr (b : Byte) : (takeCommand b s).addr = 0 := rfl
@[simp] theorem takeCommand_acnt (b : Byte) : (takeCommand b s).acnt = 0 := rfl
@[simp] theorem takeCommand_retry (b : Byte) : (takeCommand b s).retry = s.retry := rfl
@[simp] theorem takeCommand_spare (b : Byte) : (takeCommand b s).spare = s.spare := rfl
@[simp] theorem takeCommand_buf (b : Byte) : (takeCommand b s).buf = s.buf := rfl
@[simp] theorem takeCommand_wcnt (b : Byte) : (takeCommand b s).wcnt = s.wcnt := rfl
@[simp] theorem takeCommand_oq (b : Byte) : (takeCommand b s).oq = s.oq := rfl
@[simp] theorem takeCommand_busy (b : Byte) : (takeCommand b s).busy = s.busy := rfl
@[simp] theorem takeCommand_err (b : Byte) : (takeCommand b s).err = s.err := rfl
@[simp] theorem takeCommand_halt (b : Byte) : (takeCommand b s).halt = s.halt := rfl
@[simp] theorem takeCommand_lnReset (b : Byte) : (takeCommand b s).lnReset = s.lnReset := rfl
@[simp] theorem takeCommand_lnStrobe (b : Byte) : (takeCommand b s).lnStrobe = s.lnStrobe := rfl
@[simp] theorem takeCommand_lnCmd (b : Byte) : (takeCommand b s).lnCmd = s.lnCmd := rfl
@[simp] theorem takeCommand_sigma (b : Byte) : (takeCommand b s).sigma = s.sigma := rfl
@[simp] theorem takeCommand_stim (b : Byte) : (takeCommand b s).stim = s.stim := rfl
@[simp] theorem takeCommand_outputs (b : Byte) : (takeCommand b s).outputs = s.outputs := rfl
@[simp] theorem takeCommand_rdByte (b : Byte) : (takeCommand b s).rdByte = s.rdByte := rfl
@[simp] theorem takeCommand_draws (b : Byte) : (takeCommand b s).draws = s.draws := rfl

/-! ### `takeRetryCount` -/

@[simp] theorem takeRetryCount_ts (b : Byte) :
    (takeRetryCount b s).ts = .getReadSparingThreshold := rfl
@[simp] theorem takeRetryCount_bs (b : Byte) : (takeRetryCount b s).bs = s.bs := rfl
@[simp] theorem takeRetryCount_dir (b : Byte) : (takeRetryCount b s).dir = s.dir := rfl
@[simp] theorem takeRetryCount_cmdv (b : Byte) : (takeRetryCount b s).cmdv = s.cmdv := rfl
@[simp] theorem takeRetryCount_cmdb (b : Byte) : (takeRetryCount b s).cmdb = s.cmdb := rfl
@[simp] theorem takeRetryCount_addr (b : Byte) : (takeRetryCount b s).addr = s.addr := rfl
@[simp] theorem takeRetryCount_acnt (b : Byte) : (takeRetryCount b s).acnt = s.acnt := rfl
@[simp] theorem takeRetryCount_retry (b : Byte) : (takeRetryCount b s).retry = b := rfl
@[simp] theorem takeRetryCount_spare (b : Byte) : (takeRetryCount b s).spare = s.spare := rfl
@[simp] theorem takeRetryCount_buf (b : Byte) : (takeRetryCount b s).buf = s.buf := rfl
@[simp] theorem takeRetryCount_wcnt (b : Byte) : (takeRetryCount b s).wcnt = s.wcnt := rfl
@[simp] theorem takeRetryCount_oq (b : Byte) : (takeRetryCount b s).oq = s.oq := rfl
@[simp] theorem takeRetryCount_busy (b : Byte) : (takeRetryCount b s).busy = s.busy := rfl
@[simp] theorem takeRetryCount_err (b : Byte) : (takeRetryCount b s).err = s.err := rfl
@[simp] theorem takeRetryCount_halt (b : Byte) : (takeRetryCount b s).halt = s.halt := rfl
@[simp] theorem takeRetryCount_lnReset (b : Byte) : (takeRetryCount b s).lnReset = s.lnReset := rfl
@[simp] theorem takeRetryCount_lnStrobe (b : Byte) :
    (takeRetryCount b s).lnStrobe = s.lnStrobe := rfl
@[simp] theorem takeRetryCount_lnCmd (b : Byte) : (takeRetryCount b s).lnCmd = s.lnCmd := rfl
@[simp] theorem takeRetryCount_sigma (b : Byte) : (takeRetryCount b s).sigma = s.sigma := rfl
@[simp] theorem takeRetryCount_stim (b : Byte) : (takeRetryCount b s).stim = s.stim := rfl
@[simp] theorem takeRetryCount_outputs (b : Byte) : (takeRetryCount b s).outputs = s.outputs := rfl
@[simp] theorem takeRetryCount_rdByte (b : Byte) : (takeRetryCount b s).rdByte = s.rdByte := rfl
@[simp] theorem takeRetryCount_draws (b : Byte) : (takeRetryCount b s).draws = s.draws := rfl

/-! ### `takeSparingThreshold` -/

@[simp] theorem takeSparingThreshold_ts (b : Byte) :
    (takeSparingThreshold b s).ts = .awaitingReadGoahead := rfl
@[simp] theorem takeSparingThreshold_bs (b : Byte) : (takeSparingThreshold b s).bs = s.bs := rfl
@[simp] theorem takeSparingThreshold_dir (b : Byte) : (takeSparingThreshold b s).dir = s.dir := rfl
@[simp] theorem takeSparingThreshold_cmdv (b : Byte) :
    (takeSparingThreshold b s).cmdv = s.cmdv := rfl
@[simp] theorem takeSparingThreshold_cmdb (b : Byte) :
    (takeSparingThreshold b s).cmdb = s.cmdb := rfl
@[simp] theorem takeSparingThreshold_addr (b : Byte) :
    (takeSparingThreshold b s).addr = s.addr := rfl
@[simp] theorem takeSparingThreshold_acnt (b : Byte) :
    (takeSparingThreshold b s).acnt = s.acnt := rfl
@[simp] theorem takeSparingThreshold_retry (b : Byte) :
    (takeSparingThreshold b s).retry = s.retry := rfl
@[simp] theorem takeSparingThreshold_spare (b : Byte) : (takeSparingThreshold b s).spare = b := rfl
@[simp] theorem takeSparingThreshold_buf (b : Byte) :
    (takeSparingThreshold b s).buf = fetchedBlock s.addr s := rfl
@[simp] theorem takeSparingThreshold_wcnt (b : Byte) :
    (takeSparingThreshold b s).wcnt = s.wcnt := rfl
@[simp] theorem takeSparingThreshold_oq (b : Byte) : (takeSparingThreshold b s).oq = s.oq := rfl
@[simp] theorem takeSparingThreshold_busy (b : Byte) :
    (takeSparingThreshold b s).busy = s.busy := rfl
@[simp] theorem takeSparingThreshold_err (b : Byte) : (takeSparingThreshold b s).err = s.err := rfl
@[simp] theorem takeSparingThreshold_halt (b : Byte) :
    (takeSparingThreshold b s).halt = s.halt := rfl
@[simp] theorem takeSparingThreshold_lnReset (b : Byte) :
    (takeSparingThreshold b s).lnReset = s.lnReset := rfl
@[simp] theorem takeSparingThreshold_lnStrobe (b : Byte) :
    (takeSparingThreshold b s).lnStrobe = s.lnStrobe := rfl
@[simp] theorem takeSparingThreshold_lnCmd (b : Byte) :
    (takeSparingThreshold b s).lnCmd = s.lnCmd := rfl
@[simp] theorem takeSparingThreshold_sigma (b : Byte) :
    (takeSparingThreshold b s).sigma = s.sigma := rfl
@[simp] theorem takeSparingThreshold_stim (b : Byte) :
    (takeSparingThreshold b s).stim = s.stim := rfl
@[simp] theorem takeSparingThreshold_outputs (b : Byte) :
    (takeSparingThreshold b s).outputs = s.outputs ++ fetchNotice s.addr := rfl
@[simp] theorem takeSparingThreshold_rdByte (b : Byte) :
    (takeSparingThreshold b s).rdByte = s.rdByte := rfl
@[simp] theorem takeSparingThreshold_draws (b : Byte) :
    (takeSparingThreshold b s).draws = s.draws := rfl

/-! ### `driveLine`: the three line levels; every other field is kept -/

@[simp] theorem driveLine_ts (e : Event) : (driveLine e s).ts = s.ts := by cases e <;> rfl
@[simp] theorem driveLine_bs (e : Event) : (driveLine e s).bs = s.bs := by cases e <;> rfl
@[simp] theorem driveLine_dir (e : Event) : (driveLine e s).dir = s.dir := by cases e <;> rfl
@[simp] theorem driveLine_cmdv (e : Event) : (driveLine e s).cmdv = s.cmdv := by cases e <;> rfl
@[simp] theorem driveLine_cmdb (e : Event) : (driveLine e s).cmdb = s.cmdb := by cases e <;> rfl
@[simp] theorem driveLine_addr (e : Event) : (driveLine e s).addr = s.addr := by cases e <;> rfl
@[simp] theorem driveLine_acnt (e : Event) : (driveLine e s).acnt = s.acnt := by cases e <;> rfl
@[simp] theorem driveLine_retry (e : Event) : (driveLine e s).retry = s.retry := by cases e <;> rfl
@[simp] theorem driveLine_spare (e : Event) : (driveLine e s).spare = s.spare := by cases e <;> rfl
@[simp] theorem driveLine_buf (e : Event) : (driveLine e s).buf = s.buf := by cases e <;> rfl
@[simp] theorem driveLine_wcnt (e : Event) : (driveLine e s).wcnt = s.wcnt := by cases e <;> rfl
@[simp] theorem driveLine_oq (e : Event) : (driveLine e s).oq = s.oq := by cases e <;> rfl
@[simp] theorem driveLine_busy (e : Event) : (driveLine e s).busy = s.busy := by cases e <;> rfl
@[simp] theorem driveLine_err (e : Event) : (driveLine e s).err = s.err := by cases e <;> rfl
@[simp] theorem driveLine_halt (e : Event) : (driveLine e s).halt = s.halt := by cases e <;> rfl
@[simp] theorem driveLine_sigma (e : Event) : (driveLine e s).sigma = s.sigma := by cases e <;> rfl
@[simp] theorem driveLine_stim (e : Event) : (driveLine e s).stim = s.stim := by cases e <;> rfl
@[simp] theorem driveLine_outputs (e : Event) :
    (driveLine e s).outputs = s.outputs := by cases e <;> rfl
@[simp] theorem driveLine_rdByte (e : Event) :
    (driveLine e s).rdByte = s.rdByte := by cases e <;> rfl
@[simp] theorem driveLine_draws (e : Event) : (driveLine e s).draws = s.draws := by cases e <;> rfl

/-- The levels after an event (R36, R92). -/
theorem driveLine_levels (e : Event) :
    driveLine e s =
      { s with
        lnReset := if e = .rstA then true else if e = .rstD then false else s.lnReset
        lnStrobe := if e = .stbA then true else if e = .stbD then false else s.lnStrobe
        lnCmd := if e = .cmdA then true else if e = .cmdD then false else s.lnCmd } := by
  cases e <;> rfl

end Sys2Proof.Machine
end

