-- ==== Sys2Proof/Laws/Ops.lean ====
section
/-! SUPPORT. What each shared operation can do: one lemma per operation that lists every next state it
answers. Cite these instead of unfolding the operations. -/

namespace Sys2Proof.Machine

/-- The block whose bytes are a block's own. -/
theorem blockOf_getD (b : Block) : blockOf (fun i => b.getD i 0) = b := by
  apply Vector.ext
  intro i hi
  simp [blockOf, Vector.getD, hi]

/-- Admitted events are the well-formed ones. -/
theorem accept_next {e : Event} {s t : State} {k : State → Host.Outcome State Fault Refusal} :
    accept e s k = .next t ↔ wellFormedStimulus e s = true ∧ k (driveLine e s) = .next t := by
  unfold accept
  split <;> simp_all

/-- An admitted event faults where its continuation does. -/
theorem accept_fault {e : Event} {s : State} {k : State → Host.Outcome State Fault Refusal} {f : Fault} :
    accept e s k = .fault f ↔ wellFormedStimulus e s = true ∧ k (driveLine e s) = .fault f := by
  unfold accept
  split <;> simp_all

/-- Ill-formed stimulus is refused (R92). -/
theorem accept_illFormed {e : Event} {s : State} {k : State → Host.Outcome State Fault Refusal}
    (h : wellFormedStimulus e s = false) : accept e s k = .refused (.illFormedStimulus e) := by
  simp [accept, h]

/-- A well-formed event goes on after its line has moved. -/
theorem accept_wellFormed {e : Event} {s : State} {k : State → Host.Outcome State Fault Refusal}
    (h : wellFormedStimulus e s = true) : accept e s k = k (driveLine e s) := by
  simp [accept, h]

/-- A halted machine keeps its state (R239). -/
theorem unlessHalted_next {s t : State} {k : State → Host.Outcome State Fault Refusal} :
    unlessHalted s k = .next t ↔ (s.halt = true ∧ t = s) ∨ (s.halt = false ∧ k s = .next t) := by
  unfold unlessHalted
  cases h : s.halt <;> simp [eq_comm]

/-- A halted machine does not fault. -/
theorem unlessHalted_fault {s : State} {k : State → Host.Outcome State Fault Refusal} {f : Fault} :
    unlessHalted s k = .fault f ↔ s.halt = false ∧ k s = .fault f := by
  unfold unlessHalted
  cases h : s.halt <;> simp

/-- A running machine goes on. -/
theorem unlessHalted_running {s : State} {k : State → Host.Outcome State Fault Refusal}
    (h : s.halt = false) : unlessHalted s k = k s := by
  simp [unlessHalted, h]

/-- Every next state of a COMMAND rise (R143 to R153). -/
theorem commandRise_next {s t : State} (h : commandRise s = .next t) :
    wellFormedStimulus .cmdA s = true ∧
    ((s.halt = true ∧ t = { s with lnCmd := true }) ∨
     (s.halt = false ∧
      ((∃ c start, riseTarget s.ts = some (c, start) ∧ s.ts ≠ .handleReadData ∧ s.ts ≠ .getWrittenData ∧
          t = beginHandshake c start { s with lnCmd := true }) ∨
       (s.ts = .handleReadData ∧
          t = beginHandshake Config.naGetcmd .startTransaction
            (enterAwaitingCommand (clearQueue { s with lnCmd := true }))) ∨
       (s.ts = .getWrittenData ∧
          t = beginHandshake Config.naPerform .startStatusTransaction
            (storeCollected { s with lnCmd := true })) ∨
       (riseTarget s.ts = none ∧
          t = raise (.transactionOrderViolation .cmdA s.ts none) { s with lnCmd := true })))) := by
  unfold commandRise at h
  obtain ⟨hw, h⟩ := accept_next.1 h
  refine ⟨hw, ?_⟩
  simp only [driveLine] at h
  rcases unlessHalted_next.1 h with ⟨hh, rfl⟩ | ⟨hh, h⟩
  · exact .inl ⟨hh, rfl⟩
  · refine .inr ⟨hh, ?_⟩
    rcases hts : s.ts <;> simp only [hts] at h <;> cases h <;> simp [riseTarget]

/-- A COMMAND rise never faults. -/
theorem commandRise_ne_fault (s : State) (f : Fault) : commandRise s ≠ .fault f := by
  intro h
  unfold commandRise at h
  have h := (unlessHalted_fault.1 (accept_fault.1 h).2).2
  split at h <;> cases h

/-- A next-action instruction that answers a next state is the COMMAND rise. -/
theorem issueNextAction_next {c : Byte} {s t : State} (h : issueNextAction c s = .next t) :
    commandRise s = .next t := by
  unfold issueNextAction at h
  split at h
  · split at h
    · exact h
    · cases h
  · exact h

/-- A next-action instruction never faults. -/
theorem issueNextAction_ne_fault (c : Byte) (s : State) (f : Fault) : issueNextAction c s ≠ .fault f := by
  intro h
  unfold issueNextAction at h
  split at h
  · split at h
    · exact commandRise_ne_fault s f h
    · cases h
  · exact commandRise_ne_fault s f h

/-- Every next state of a COMMAND fall (R154 to R160). -/
theorem commandFall_next {s t : State} (h : commandFall s = .next t) :
    wellFormedStimulus .cmdD s = true ∧
    ((s.halt = true ∧ t = { s with lnCmd := false }) ∨
     (s.halt = false ∧
      ((s.ts = .awaitingCommand ∧ t = setBusy false { s with lnCmd := false }) ∨
       (s.ts = .finishHandshake ∧ t = { setBusy false { s with lnCmd := false } with ts := .getCommand }) ∨
       (s.ts = .finishReadHandshake ∧
          t = { setBusy false (pushQueue (statusWord.toList ++ s.buf.toList) { s with lnCmd := false }) with
            ts := .handleReadStatus }) ∨
       (s.ts = .finishWriteHandshake ∧
          t = { setBusy false { s with lnCmd := false, wcnt := 0 } with ts := .getWrittenData }) ∨
       (s.ts = .finishStatusHandshake ∧
          t = { setBusy false (pushQueue statusWord.toList { s with lnCmd := false }) with
            ts := .handleWriteStatus }) ∨
       (s.ts ≠ .awaitingCommand ∧ s.ts ≠ .finishHandshake ∧ s.ts ≠ .finishReadHandshake ∧
          s.ts ≠ .finishWriteHandshake ∧ s.ts ≠ .finishStatusHandshake ∧
          t = raise (.transactionOrderViolation .cmdD s.ts none) { s with lnCmd := false })))) := by
  unfold commandFall at h
  obtain ⟨hw, h⟩ := accept_next.1 h
  refine ⟨hw, ?_⟩
  simp only [driveLine] at h
  rcases unlessHalted_next.1 h with ⟨hh, rfl⟩ | ⟨hh, h⟩
  · exact .inl ⟨hh, rfl⟩
  · refine .inr ⟨hh, ?_⟩
    rcases hts : s.ts <;> simp only [hts] at h <;> cases h <;> simp

/-- A COMMAND fall never faults. -/
theorem commandFall_ne_fault (s : State) (f : Fault) : commandFall s ≠ .fault f := by
  intro h
  unfold commandFall at h
  have h := (unlessHalted_fault.1 (accept_fault.1 h).2).2
  split at h <;> cases h

/-- Every next state of a host read (R126). -/
theorem hostRead_next {s t : State} (h : hostRead s = .next t) :
    s.lnReset = false ∧
    ((s.halt = true ∧ t = readUnspecified s) ∨
     (s.halt = false ∧
      ((s.bs ≠ .hostWillRead ∧ t = readUnspecified (raise (.byteOrderViolation .rd s.bs s.ts) s)) ∨
       (s.bs = .hostWillRead ∧ s.oq = [] ∧ t = readUnspecified (raise (.outboundUnderrun s.ts) s)) ∨
       (s.bs = .hostWillRead ∧ ∃ v rest, s.oq = v :: rest ∧
          t = readNotify { s with
            oq := rest, bs := .hostDidRead, rdByte := v, outputs := s.outputs ++ [.busByte v] })))) := by
  unfold hostRead at h
  obtain ⟨hw, h⟩ := accept_next.1 h
  refine ⟨by simpa [wellFormedStimulus] using hw, ?_⟩
  simp only [driveLine] at h
  cases hh : s.halt with
  | true => simp only [hh, if_true] at h; cases h; exact .inl ⟨rfl, rfl⟩
  | false =>
    refine .inr ⟨rfl, ?_⟩
    simp only [hh, Bool.false_eq_true, if_false] at h
    split at h
    · cases h; exact .inl ⟨‹_›, rfl⟩
    · have hb : s.bs = .hostWillRead := by simpa using ‹¬ s.bs ≠ .hostWillRead›
      split at h
      · cases h; exact .inr (.inl ⟨hb, ‹_›, rfl⟩)
      · cases h; exact .inr (.inr ⟨hb, _, _, ‹_›, rfl⟩)

/-- A host read never faults. -/
theorem hostRead_ne_fault (s : State) (f : Fault) : hostRead s ≠ .fault f := by
  intro h
  unfold hostRead at h
  have h := (accept_fault.1 h).2
  split at h
  · cases h
  · split at h
    · cases h
    · split at h <;> cases h

/-- Every next state of an address byte (R191, R192). -/
theorem takeAddressByte_next {b : Byte} {s t : State} (h : takeAddressByte b s = .next t) :
    (s.acnt = 2 ∧ ∃ next, afterAddress s.cmdb = some next ∧
      t = { s with addr := accumulateAddress s.addr b, acnt := 3, ts := next }) ∨
    (s.acnt = 2 ∧ afterAddress s.cmdb = none ∧ t = raise (.unknownCommand s.cmdb) s) ∨
    (s.acnt.val < 2 ∧ t = { s with addr := accumulateAddress s.addr b, acnt := s.acnt + 1 }) := by
  unfold takeAddressByte at h
  split at h
  · split at h
    · cases h; exact .inl ⟨‹_›, _, ‹_›, rfl⟩
    · cases h; exact .inr (.inl ⟨‹_›, ‹_›, rfl⟩)
  · split at h
    · cases h
    · cases h
      refine .inr (.inr ⟨?_, rfl⟩)
      have h2 : s.acnt.val ≠ 2 := fun e => ‹¬ s.acnt = 2› (Fin.ext e)
      have h3 : s.acnt.val ≠ 3 := fun e => ‹¬ s.acnt = 3› (Fin.ext e)
      omega

/-- Every next state of a host write (R127): halted, one of the three checks that fail before BS moves, or
the byte consumed by the phase. -/
theorem hostWrite_next {b : Byte} {s t : State} (h : hostWrite b s = .next t) :
    s.lnReset = false ∧
    ((s.halt = true ∧ t = s) ∨
     (s.halt = false ∧
      ((s.bs ≠ .hostWillWrite ∧ t = raise (.byteOrderViolation .wr s.bs s.ts) s) ∨
       (s.bs = .hostWillWrite ∧ consumesByte s.ts = false ∧
          t = raise (.transactionOrderViolation .wr s.ts (some b)) s) ∨
       (s.bs = .hostWillWrite ∧ unknownCommandDue s = true ∧ t = raise (.unknownCommand s.cmdb) s) ∨
       (s.bs = .hostWillWrite ∧ s.ts = .getCommand ∧ t = takeCommand b { s with bs := .hostDidWrite }) ∨
       (s.bs = .hostWillWrite ∧ s.ts = .getAddress ∧ unknownCommandDue s = false ∧
          takeAddressByte b { s with bs := .hostDidWrite } = .next t) ∨
       (s.bs = .hostWillWrite ∧ s.ts = .getReadRetryCount ∧
          t = takeRetryCount b { s with bs := .hostDidWrite }) ∨
       (s.bs = .hostWillWrite ∧ s.ts = .getReadSparingThreshold ∧
          t = takeSparingThreshold b { s with bs := .hostDidWrite }) ∨
       (s.bs = .hostWillWrite ∧ s.ts = .getWrittenData ∧
          t = takeDataByte b { s with bs := .hostDidWrite }) ∨
       (s.bs = .hostWillWrite ∧ ∃ finish, finishAfterHandshake s.ts = some finish ∧
          t = takeAcknowledge finish b { s with bs := .hostDidWrite })))) := by
  unfold hostWrite at h
  obtain ⟨hw, h⟩ := accept_next.1 h
  refine ⟨by simpa [wellFormedStimulus] using hw, ?_⟩
  simp only [driveLine] at h
  rcases unlessHalted_next.1 h with ⟨hh, rfl⟩ | ⟨hh, h⟩
  · exact .inl ⟨hh, rfl⟩
  refine .inr ⟨hh, ?_⟩
  split at h
  · cases h; exact .inl ⟨‹_›, rfl⟩
  have hb : s.bs = .hostWillWrite := by simpa using ‹¬ s.bs ≠ .hostWillWrite›
  split at h
  · cases h; exact .inr (.inl ⟨hb, by simpa using ‹(!consumesByte s.ts) = true›, rfl⟩)
  split at h
  · cases h; exact .inr (.inr (.inl ⟨hb, ‹_›, rfl⟩))
  have hu : unknownCommandDue s = false := by simpa using ‹¬ unknownCommandDue s = true›
  have hc : consumesByte s.ts = true := by simpa using ‹¬ (!consumesByte s.ts) = true›
  unfold writeNotify at h
  simp only at h
  cases hts : s.ts <;> simp only [hts, finishAfterHandshake] at h <;>
    first
      | (simp [hts, consumesByte, finishAfterHandshake] at hc; done)
      | (cases h; simp [hb, hu, finishAfterHandshake])
      | (simp [hb, hu, h, finishAfterHandshake])

/-- A host write faults only when ACNT is already 3 in GetAddress. -/
theorem hostWrite_fault {b : Byte} {s : State} {f : Fault} (h : hostWrite b s = .fault f) :
    s.ts = .getAddress ∧ s.acnt = 3 := by
  unfold hostWrite at h
  obtain ⟨_, h⟩ := accept_fault.1 h
  simp only [driveLine] at h
  obtain ⟨_, h⟩ := unlessHalted_fault.1 h
  split at h
  · cases h
  split at h
  · cases h
  split at h
  · cases h
  unfold writeNotify at h
  simp only at h
  cases hts : s.ts <;> simp only [hts, finishAfterHandshake] at h <;> try cases h
  unfold takeAddressByte at h
  split at h
  · split at h <;> cases h
  split at h
  · exact ⟨rfl, ‹_›⟩
  · cases h

/-- Every next state of a direction event (R122, R123). -/
theorem setDirection_next {e : Event} {d : ByteDirection} {s t : State} (h : setDirection e d s = .next t) :
    wellFormedStimulus e s = true ∧
    ((s.halt = true ∧ t = driveLine e s) ∨
     (s.halt = false ∧
      ((s.bs ≠ .idle ∧ t = raise (.byteOrderViolation e s.bs s.ts) (driveLine e s)) ∨
       (s.bs = .idle ∧ t = { driveLine e s with dir := d })))) := by
  unfold setDirection at h
  obtain ⟨hw, h⟩ := accept_next.1 h
  refine ⟨hw, ?_⟩
  rcases unlessHalted_next.1 h with ⟨hh, rfl⟩ | ⟨hh, h⟩
  · exact .inl ⟨by simpa using hh, rfl⟩
  · refine .inr ⟨by simpa using hh, ?_⟩
    simp only [driveLine_bs, driveLine_ts] at h
    split at h
    · cases h; exact .inl ⟨‹_›, rfl⟩
    · cases h; exact .inr ⟨by simpa using ‹¬ s.bs ≠ .idle›, by simp only [driveLine_bs, driveLine_ts]⟩

/-- A direction event never faults. -/
theorem setDirection_ne_fault (e : Event) (d : ByteDirection) (s : State) (f : Fault) :
    setDirection e d s ≠ .fault f := by
  intro h
  unfold setDirection at h
  have h := (unlessHalted_fault.1 (accept_fault.1 h).2).2
  split at h <;> cases h

/-- Every next state of a STROBE rise (R124). -/
theorem strobeRise_next {s t : State} (h : strobeRise s = .next t) :
    wellFormedStimulus .stbA s = true ∧
    ((s.halt = true ∧ t = { s with lnStrobe := true }) ∨
     (s.halt = false ∧
      ((s.bs ≠ .idle ∧ t = raise (.byteOrderViolation .stbA s.bs s.ts) { s with lnStrobe := true }) ∨
       (s.bs = .idle ∧ s.dir = .hostRead ∧ t = { s with lnStrobe := true, bs := .hostWillRead }) ∨
       (s.bs = .idle ∧ s.dir = .hostWrite ∧ t = { s with lnStrobe := true, bs := .hostWillWrite })))) := by
  unfold strobeRise at h
  obtain ⟨hw, h⟩ := accept_next.1 h
  refine ⟨hw, ?_⟩
  simp only [driveLine] at h
  rcases unlessHalted_next.1 h with ⟨hh, rfl⟩ | ⟨hh, h⟩
  · exact .inl ⟨hh, rfl⟩
  · refine .inr ⟨hh, ?_⟩
    split at h
    · cases h; exact .inl ⟨‹_›, rfl⟩
    · have hb : s.bs = .idle := by simpa using ‹¬ s.bs ≠ .idle›
      cases hd : s.dir <;> simp only [hd] at h <;> cases h <;> simp [hb]

/-- A STROBE rise never faults. -/
theorem strobeRise_ne_fault (s : State) (f : Fault) : strobeRise s ≠ .fault f := by
  intro h
  unfold strobeRise at h
  have h := (unlessHalted_fault.1 (accept_fault.1 h).2).2
  split at h
  · cases h
  · split at h <;> cases h

/-- Every next state of a STROBE fall (R125). -/
theorem strobeFall_next {s t : State} (h : strobeFall s = .next t) :
    wellFormedStimulus .stbD s = true ∧
    ((s.halt = true ∧ t = { s with lnStrobe := false }) ∨
     (s.halt = false ∧
      ((((s.bs = .hostDidRead ∧ s.dir = .hostRead) ∨ (s.bs = .hostDidWrite ∧ s.dir = .hostWrite)) ∧
          t = { s with lnStrobe := false, bs := .idle }) ∨
       (¬ ((s.bs = .hostDidRead ∧ s.dir = .hostRead) ∨ (s.bs = .hostDidWrite ∧ s.dir = .hostWrite)) ∧
          t = raise (.byteOrderViolation .stbD s.bs s.ts) { s with lnStrobe := false })))) := by
  unfold strobeFall at h
  obtain ⟨hw, h⟩ := accept_next.1 h
  refine ⟨hw, ?_⟩
  simp only [driveLine] at h
  rcases unlessHalted_next.1 h with ⟨hh, rfl⟩ | ⟨hh, h⟩
  · exact .inl ⟨hh, rfl⟩
  · refine .inr ⟨hh, ?_⟩
    split at h
    · cases h; exact .inl ⟨‹_›, rfl⟩
    · cases h; exact .inr ⟨‹_›, rfl⟩

/-- A STROBE fall never faults. -/
theorem strobeFall_ne_fault (s : State) (f : Fault) : strobeFall s ≠ .fault f := by
  intro h
  unfold strobeFall at h
  have h := (unlessHalted_fault.1 (accept_fault.1 h).2).2
  split at h <;> cases h

end Sys2Proof.Machine
end

