-- ==== Sys2Proof/Laws/PerInstr.lean ====
section
/-! SUPPORT. Statements made per instruction. RoundTrip: what the encoder writes for a well-formed
instruction, the decoder reads back in the instruction's code space. -/

namespace Sys2Proof.Laws

/-- The fields of the EVT word of a WR (R91). -/
theorem decodeEvent_wr (b : Byte) : decodeEvent (0x900 + b.zeroExtend 16) = .ok (.wr b) := by
  have above : aboveField (0x900 + b.zeroExtend 16) = 0 := by
    revert b
    decide +kernel
  have event : eventField (0x900 + b.zeroExtend 16) = 0x9 := by
    revert b
    decide +kernel
  have data : dataField (0x900 + b.zeroExtend 16) = b := by
    revert b
    decide +kernel
  simp only [decodeEvent, above, event, data, ne_eq, not_true, if_false, if_true]

/-- The round trip of one instruction. -/
def RoundTrip.Statement (i : Instr) : Prop :=
  i.wellFormed = true → decode i.codeSpace (encode i) = .ok i

theorem RoundTrip.rstA : RoundTrip.Statement .rstA := fun _ => rfl

theorem RoundTrip.rstD : RoundTrip.Statement .rstD := fun _ => rfl

theorem RoundTrip.dirR : RoundTrip.Statement .dirR := fun _ => rfl

theorem RoundTrip.dirW : RoundTrip.Statement .dirW := fun _ => rfl

theorem RoundTrip.stbA : RoundTrip.Statement .stbA := fun _ => rfl

theorem RoundTrip.stbD : RoundTrip.Statement .stbD := fun _ => rfl

theorem RoundTrip.cmdA : RoundTrip.Statement .cmdA := fun _ => rfl

theorem RoundTrip.cmdD : RoundTrip.Statement .cmdD := fun _ => rfl

theorem RoundTrip.rd : RoundTrip.Statement .rd := fun _ => rfl

theorem RoundTrip.wr (b : Byte) : RoundTrip.Statement (.wr b) := fun _ => decodeEvent_wr b

theorem RoundTrip.read : RoundTrip.Statement .read := fun _ => rfl

theorem RoundTrip.write : RoundTrip.Statement .write := fun _ => rfl

theorem RoundTrip.writeVerify : RoundTrip.Statement .writeVerify := fun _ => rfl

theorem RoundTrip.cmdUnknown (b : Byte) : RoundTrip.Statement (.cmdUnknown b) := by
  intro h
  simp only [Instr.wellFormed, Bool.and_eq_true, bne_iff_ne, ne_eq] at h
  simp only [decode, encode, Instr.codeSpace, decodeCode, decodeCommand, h, if_false]

theorem RoundTrip.naGetcmd : RoundTrip.Statement .naGetcmd := fun _ => rfl

theorem RoundTrip.naRead : RoundTrip.Statement .naRead := fun _ => rfl

theorem RoundTrip.naWrdata : RoundTrip.Statement .naWrdata := fun _ => rfl

theorem RoundTrip.naWrvdata : RoundTrip.Statement .naWrvdata := fun _ => rfl

theorem RoundTrip.naPerform : RoundTrip.Statement .naPerform := fun _ => rfl

theorem RoundTrip.ack : RoundTrip.Statement .ack := fun _ => rfl

theorem RoundTrip.ackMismatch (b : Byte) : RoundTrip.Statement (.ackMismatch b) := by
  intro h
  simp only [Instr.wellFormed, bne_iff_ne, ne_eq] at h
  simp only [decode, encode, Instr.codeSpace, decodeCode, decodeAcknowledge, h, if_false]

end Sys2Proof.Laws
end

