-- ==== Sys2Proof/Tests/Slice0.lean ====
section
/-! SUPPORT. The model's own tests: ill-formed terms refused, every encoding decoded from a word written out
from the spec's table, vectors of the spec (their T numbers are named), and a witness for the hypotheses of
each obligation. -/

namespace Sys2Proof.Tests

open Sys2Proof.Machine

/-- One reading of the next state an outcome answers. -/
def after {α : Type} (o : Host.Outcome State Fault Refusal) (f : State → α) : Option α :=
  match o with
  | .next t => some (f t)
  | .fault _ => none
  | .refused _ => none

/-- Whether an outcome is a refusal. -/
def refuses (o : Host.Outcome State Fault Refusal) : Bool :=
  match o with
  | .next _ => false
  | .fault _ => false
  | .refused _ => true

/-- A state in the given phases; the other fields are those of power-on. -/
def at_ (ts : TransactionState) (bs : ByteState) (dir : ByteDirection) : State :=
  { State.reset with ts := ts, bs := bs, dir := dir, lnStrobe := bs != .idle }

/-- A write pulse open in the given phase. -/
def writing (ts : TransactionState) : State := at_ ts .hostWillWrite .hostWrite

/-- A read pulse open in the given phase, with a queue. -/
def reading (ts : TransactionState) (oq : List Byte) : State :=
  { at_ ts .hostWillRead .hostRead with oq := oq }

/-! ### Well-formed terms -/

theorem test_cmdUnknown_of_a_command_byte_is_illFormed :
    ((Instr.cmdUnknown 0x00).wellFormed, (Instr.cmdUnknown 0x01).wellFormed,
      (Instr.cmdUnknown 0x02).wellFormed, (Instr.cmdUnknown 0x03).wellFormed) =
      (false, false, false, true) := by decide

theorem test_ackMismatch_of_0x55_is_illFormed :
    ((Instr.ackMismatch 0x55).wellFormed, (Instr.ackMismatch 0x54).wellFormed) = (false, true) := by decide

/-! ### Decoding: each word written out from R91, R94, R95, R96 -/

theorem test_decode_rstA : decode none (.event 0b0000000000000000) = .ok .rstA := by decide
theorem test_decode_rstD : decode none (.event 0b0000000100000000) = .ok .rstD := by decide
theorem test_decode_dirR : decode none (.event 0b0000001000000000) = .ok .dirR := by decide
theorem test_decode_dirW : decode none (.event 0b0000001100000000) = .ok .dirW := by decide
theorem test_decode_stbA : decode none (.event 0b0000010000000000) = .ok .stbA := by decide
theorem test_decode_stbD : decode none (.event 0b0000010100000000) = .ok .stbD := by decide
theorem test_decode_cmdA : decode none (.event 0b0000011000000000) = .ok .cmdA := by decide
theorem test_decode_cmdD : decode none (.event 0b0000011100000000) = .ok .cmdD := by decide
theorem test_decode_rd : decode none (.event 0b0000100000000000) = .ok .rd := by decide
theorem test_decode_wr : decode none (.event 0b0000100110101011) = .ok (.wr 0xAB) := by decide
theorem test_decode_read : decode (some .command) (.code 0b00000000) = .ok .read := by decide
theorem test_decode_write : decode (some .command) (.code 0b00000001) = .ok .write := by decide
theorem test_decode_writeVerify : decode (some .command) (.code 0b00000010) = .ok .writeVerify := by decide
theorem test_decode_cmdUnknown : decode (some .command) (.code 0b01010101) = .ok (.cmdUnknown 0x55) := by
  decide
theorem test_decode_naGetcmd : decode (some .nextAction) (.code 0b00000001) = .ok .naGetcmd := by decide
theorem test_decode_naRead : decode (some .nextAction) (.code 0b00000010) = .ok .naRead := by decide
theorem test_decode_naWrdata : decode (some .nextAction) (.code 0b00000011) = .ok .naWrdata := by decide
theorem test_decode_naWrvdata : decode (some .nextAction) (.code 0b00000100) = .ok .naWrvdata := by decide
theorem test_decode_naPerform : decode (some .nextAction) (.code 0b00000110) = .ok .naPerform := by decide
theorem test_decode_ack : decode (some .acknowledge) (.code 0b01010101) = .ok .ack := by decide
theorem test_decode_ackMismatch :
    decode (some .acknowledge) (.code 0b00000000) = .ok (.ackMismatch 0x00) := by decide

/-- The words no table row has (R91, R95, V2, V6). -/
theorem test_decode_rejects :
    (decode none (.event 0x0A00), decode none (.event 0x0601), decode none (.event 0x1600),
      decode (some .nextAction) (.code 0x05), decode none (.code 0x00)) =
      (.error .noSuchEvent, .error .dataNotZero, .error .beyondTwelveBits,
        .error .noSuchNextAction, .error .noCodeSpace) := by decide

theorem test_encode_wr : encode (.wr 0x55) = .event 0x0955 := by decide

/-! ### Vectors of the spec -/

/-- T1. -/
theorem test_T1_dirR : after (exec .dirR State.reset) (fun t => (t.dir, t.bs)) =
    some (.hostRead, .idle) := by decide

/-- T4. -/
theorem test_T4_dirW_in_a_transfer :
    after (exec .dirW (reading .startTransaction [0x01])) (fun t => (t.dir, t.err, t.halt, t.oq)) =
      some (.hostRead, .byteOrderViolation, true, [0x01]) := by decide

/-- T5 and T6. -/
theorem test_T5_stbA : after (exec .stbA (at_ .awaitingCommand .idle .hostRead)) (fun t => (t.bs, t.lnStrobe)) =
    some (.hostWillRead, true) := by decide
theorem test_T6_stbA : after (exec .stbA State.reset) (fun t => t.bs) = some .hostWillWrite := by decide

/-- T7 and T9. -/
theorem test_T7_stbD_without_access :
    after (exec .stbD (writing .awaitingCommand)) (fun t => (t.bs, t.lnStrobe, t.err, t.halt)) =
      some (.hostWillWrite, false, .byteOrderViolation, true) := by decide
theorem test_T9_stbD : after (exec .stbD (at_ .getCommand .hostDidWrite .hostWrite)) (fun t => t.bs) =
    some .idle := by decide

/-- T10 and T12. -/
theorem test_T10_rd :
    after (exec .rd (reading .startReadTransaction [0x02])) (fun t => (t.rdByte, t.oq, t.bs, t.ts, t.outputs)) =
      some (0x02, [], .hostDidRead, .handshakeReadTransaction, [.busByte 0x02]) := by decide
theorem test_T12_rd_underrun :
    after (exec .rd (reading .awaitingCommand [])) (fun t => (t.err, t.halt, t.bs, t.outputs)) =
      some (.outboundUnderrun, true, .hostWillRead,
        [.report (.outboundUnderrun .awaitingCommand)]) := by decide

/-- T16, T17 and T65: the byte level is checked first. -/
theorem test_T16_wr : after (exec (.wr 0x55) (writing .handshakeTransaction)) (fun t => (t.bs, t.ts)) =
    some (.hostDidWrite, .finishHandshake) := by decide
theorem test_T65_wr : after (exec (.wr 0x00) State.reset) (fun t => t.outputs) =
    some [.report (.byteOrderViolation .wr .idle .awaitingCommand)] := by decide

/-- T20 and T33. -/
theorem test_T20_cmdA :
    after (exec .cmdA State.reset) (fun t => (t.oq, t.busy, t.outputs, t.ts, t.lnCmd)) =
      some ([0x01], true, [.busy true], .startTransaction, true) := by decide
theorem test_T33_cmdA_aborts :
    after (exec .cmdA { reading .handleReadData [0x10, 0x11] with cmdv := true })
      (fun t => (t.oq, t.busy, t.ts, t.cmdv, t.bs)) =
      some ([0x01], true, .startTransaction, false, .hostWillRead) := by decide

/-- T29 and T28. -/
theorem test_T29_cmdD :
    after (exec .cmdD { State.reset with lnCmd := true }) (fun t => (t.lnCmd, t.outputs, t.ts)) =
      some (false, [], .awaitingCommand) := by decide
theorem test_T28_cmdD :
    after (exec .cmdD { State.reset with ts := .finishStatusHandshake, lnCmd := true, busy := true })
      (fun t => (t.oq, t.busy, t.ts)) =
      some ([0x00, 0x00, 0x00, 0x00], false, .handleWriteStatus) := by decide

/-- T40 and T48. -/
theorem test_T40_read :
    after (exec .read { writing .getCommand with cmdb := 0x7F, addr := 0x123456 })
      (fun t => (t.cmdb, t.cmdv, t.addr, t.ts)) =
      some (0x00, true, 0x000000, .getAddress) := by decide
theorem test_T48_cmdUnknown :
    after (exec (.cmdUnknown 0x55) (writing .getCommand)) (fun t => (t.cmdb, t.ts)) =
      some (0x55, .getAddress) := by decide

/-- R192: the third byte of a write and of a write-verify. -/
theorem test_write_path :
    after (exec (.wr 0x10) { writing .getAddress with cmdb := 0x01, acnt := 2, addr := 0x0012 })
      (fun t => (t.addr, t.acnt, t.ts)) =
      some (0x001210, 3, .awaitingWriteGoahead) := by decide

/-- T47. -/
theorem test_T47_unknown_command :
    after (exec (.wr 0x56) { writing .getAddress with cmdb := 0x7F, acnt := 2, addr := 0x001234 })
      (fun t => (t.err, t.halt, t.addr, t.acnt, t.bs)) =
      some (.unknownCommand, true, 0x001234, 2, .hostWillWrite) := by decide

/-- T34: the mismatch in the status handshake. -/
theorem test_T34_ackMismatch :
    after (exec (.ackMismatch 0xAA) { writing .handshakeStatusTransaction with busy := true, cmdv := true })
      (fun t => (t.outputs, t.err, t.halt, t.ts, t.cmdv, t.bs)) =
      some ([.report (.ackMismatch 0xAA .handshakeStatusTransaction), .busy false], .ackMismatch, false,
        .awaitingCommand, false, .hostDidWrite) := by decide

/-- T22 and T23. -/
theorem test_T22_naWrdata :
    after (exec .naWrdata (at_ .awaitingWriteGoahead .idle .hostWrite)) (fun t => (t.oq, t.busy, t.ts)) =
      some ([0x03], true, .startWriteTransaction) := by decide
theorem test_T23_naWrvdata :
    after (exec .naWrvdata (at_ .awaitingWriteVerifyGoahead .idle .hostWrite)) (fun t => (t.oq, t.busy, t.ts)) =
      some ([0x04], true, .startWriteVerifyTransaction) := by decide

/-- T50: a write to a reserved address makes no store. -/
theorem test_T50_naPerform :
    after (exec .naPerform { at_ .getWrittenData .idle .hostWrite with addr := 0xFFFFFF })
      (fun t => (t.outputs, t.oq, t.busy, t.ts)) =
      some ([.busy true], [0x06], true, .startStatusTransaction) := by decide

/-- T61 and T71. -/
theorem test_T61_rstA :
    after (exec .rstA { reading .awaitingCommand [] with err := .outboundUnderrun, halt := true, lnCmd := true })
      (fun t => (t.bs, t.err, t.halt, t.dir, t.lnReset, t.lnCmd)) =
      some (.idle, .noError, false, .hostRead, true, true) := by decide
theorem test_T71_rstD :
    after (exec .rstD { State.reset with lnReset := true, lnStrobe := true }) (fun t => (t.lnReset, t.lnStrobe)) =
      some (false, true) := by decide

/-- T73 and T74: refused stimulus. -/
theorem test_T73_refused : (refuses (exec .stbD State.reset), refuses (exec .cmdD State.reset),
    refuses (exec .rstD State.reset)) = (true, true, true) := by decide
theorem test_T74_refused : (refuses (exec .cmdA { State.reset with lnReset := true }),
    refuses (exec .rstA { State.reset with lnReset := true })) = (true, true) := by decide

/-- R63: the pattern ends in 0x13. -/
theorem test_pattern_end : patternBlock[531] = 0x13 := by
  simp only [patternBlock, blockOf_getElem]
  decide

/-- R65 on the memory of a disk: a byte written reads back, and writing the pattern's byte lists nothing. -/
theorem test_memory : (memGet (memSet [] 5 0x77) 5, memSet (memSet [] 5 0x77) 5 0x05) = (0x77, []) := by decide

/-- The step runs an EVT word, and a table word, as the first instruction after power-on. -/
theorem test_step_cmdA : after (step (State.reset.withFetchWord 16 0x600)) (fun t => (t.ts, t.stim)) =
    some (.startTransaction, []) := by decide
theorem test_step_naWrdata : after (step (State.reset.withFetchWord 8 0x03)) (fun t => t.oq) =
    some [0x03] := by decide

/-- R105 and R106: a PUTB in text. -/
theorem test_text : stimulusText (putByte 0xA5) = "STB.A ; WR 0xA5 ; STB.D" := by decide

theorem getBytes_length (n : Nat) : (getBytes n).length = 3 * n := by
  induction n with
  | zero => rfl
  | succ n ih => rw [getBytes, List.length_append, ih, getByte, List.length_cons]; simp; omega

/-- R108: a read of a block is 1647 events. -/
theorem test_R108_read_events : (readTransaction 0x10 0x0A 0x03).length = 1647 := by
  simp [readTransaction, getBytes_length, handshake, handshakeWith, getByte, putByte, commandRead, putBytes,
    addressBytes]

/-! ### Witnesses: a state and operands that meet the hypotheses of each obligation -/

theorem witness_DecodeOfEncodeIsTheInstruction : (Instr.cmdUnknown 0xFF).wellFormed = true := by decide
theorem witness_DecodedInstructionEncodesBack :
    decode (some .command) (.code 0x02) = .ok .writeVerify ∧ decode none (.event 0x09FF) = .ok (.wr 0xFF) := by
  decide
theorem witness_StepRunsTheDecodedInstruction :
    ({ State.reset with stim := [.event 0x600] } : State).stim = [.event 0x600] ∧
    decode (codeSpaceOf State.reset.ts) (.event 0x600) = .ok .cmdA := by decide
theorem witness_StepWithoutAnInstruction : State.reset.stim = [] ∧
    ({ State.reset with stim := [.code 0x05] } : State).stim = [.code 0x05] ∧
    decode (codeSpaceOf State.reset.ts) (.code 0x05) = .error .noSuchNextAction := by decide
theorem witness_WrittenCodesAreTheWriteOfTheirByte : writtenByte .ack = some 0x55 := by decide
theorem witness_ResetRiseReinitialises : (reading .handleReadData [0x01]).lnReset = false := by decide
theorem witness_ResetRiseLeavesBufFree : State.reset.lnReset = false := by decide
theorem witness_ResetFallLowersTheLine : ({ State.reset with lnReset := true } : State).lnReset = true := by decide
theorem witness_TwoResetPulsesLeaveWhatOneLeaves : (writing .getWrittenData).lnReset = false := by decide
theorem witness_HeldInResetOnlyRstDHasAMeaning :
    ({ State.reset with lnReset := true } : State).lnReset = true ∧ Instr.cmdA ≠ Instr.rstD := by decide
theorem witness_EdgesThatDoNotChangeTheirLineAreRefused :
    ({ State.reset with lnReset := true, lnStrobe := true, lnCmd := true } : State).lnReset = true ∧
    State.reset.lnReset = false ∧ (writing .getCommand).lnStrobe = true ∧ State.reset.lnStrobe = false ∧
    ({ State.reset with lnCmd := true } : State).lnCmd = true ∧ State.reset.lnCmd = false ∧
    Instr.naRead.event = .cmdA := by decide
theorem witness_LinesFollowTheirEdges : ∃ t, exec .stbA State.reset = .next t := ⟨_, rfl⟩
theorem witness_HaltedMachineOnlyFollowsItsLines :
    ({ State.reset with halt := true, lnReset := true } : State).halt = true ∧
    ({ State.reset with halt := true } : State).lnReset = false ∧ Instr.read.event = .wr ∧
    ({ State.reset with halt := true, lnStrobe := true, lnCmd := true } : State).lnStrobe = true := by decide
theorem witness_ErrAndHaltAreClearedOnlyByReset :
    (∃ t, exec .dirR { State.reset with err := .ackMismatch, halt := true } = .next t) ∧
    Instr.dirR ≠ Instr.rstA := ⟨⟨_, rfl⟩, by decide⟩
theorem witness_DirectionIsSetWhileIdle : State.reset.running ∧ State.reset.bs = .idle ∧
    (writing .getCommand).running ∧ (writing .getCommand).bs ≠ .idle := by decide
theorem witness_StrobeRiseOpensATransfer : State.reset.running ∧ State.reset.lnStrobe = false ∧
    State.reset.bs = .idle ∧ State.reset.dir = .hostWrite ∧
    (at_ .startTransaction .idle .hostRead).dir = .hostRead ∧
    ({ State.reset with bs := .hostDidRead } : State).bs ≠ .idle := by decide
theorem witness_StrobeFallClosesATransfer : (writing .getCommand).running ∧
    (writing .getCommand).lnStrobe = true ∧ (at_ .getCommand .hostDidRead .hostRead).running ∧
    (at_ .getCommand .hostDidRead .hostRead).lnStrobe = true := by decide
theorem witness_BusAccessOutOfOrderIsFatal : State.reset.running ∧ State.reset.bs ≠ .hostWillRead ∧
    writtenByte (.wr 0x00) = some 0x00 ∧ State.reset.bs ≠ .hostWillWrite := by decide
theorem witness_ReadOfAnEmptyQueueUnderruns : (reading .awaitingCommand []).running ∧
    (reading .awaitingCommand []).bs = .hostWillRead ∧ (reading .awaitingCommand []).oq = [] := by decide
theorem witness_ReadReturnsTheHeadOfTheQueue : (reading .handleWriteStatus [0x00, 0x00]).running ∧
    (reading .handleWriteStatus [0x00, 0x00]).bs = .hostWillRead ∧
    (reading .handleWriteStatus [0x00, 0x00]).oq = 0x00 :: [0x00] := by decide
theorem witness_ReadInAStartStateLeadsToTheHandshakeState :
    (reading .startStatusTransaction [0x06]).running ∧
    (reading .startStatusTransaction [0x06]).bs = .hostWillRead ∧
    (reading .startStatusTransaction [0x06]).oq = 0x06 :: [] ∧
    (reading .startTransaction [0x01]).running := by decide
theorem witness_ReadStatusEndsWhenTheBlockIsLeft :
    (reading .handleReadStatus (0x00 :: List.replicate 532 0x00)).running ∧
    (reading .handleReadStatus (0x00 :: List.replicate 532 0x00)).bs = .hostWillRead ∧
    (reading .handleReadStatus (0x00 :: List.replicate 532 0x00)).oq = 0x00 :: List.replicate 532 0x00 ∧
    (reading .handleReadStatus (0x00 :: List.replicate 532 0x00)).ts = .handleReadStatus :=
  ⟨by decide, rfl, rfl, rfl⟩
theorem witness_LastByteReadEndsTheTransaction : (reading .handleReadData [0x13]).running ∧
    (reading .handleReadData [0x13]).bs = .hostWillRead ∧ (reading .handleReadData [0x13]).oq = 0x13 :: [] ∧
    (reading .handleReadData [0x13]).ts = .handleReadData ∧
    (reading .handleWriteStatus [0x00, 0x00]).ts = .handleWriteStatus := by decide
theorem witness_WriteNoStateConsumesIsFatal :
    (writing .awaitingWriteGoahead).running ∧ (writing .awaitingWriteGoahead).bs = .hostWillWrite ∧
    (writing .awaitingWriteGoahead).ts = .awaitingWriteGoahead := by decide
theorem witness_CommandByteIsTaken : (writing .getCommand).running ∧
    (writing .getCommand).bs = .hostWillWrite ∧ (writing .getCommand).ts = .getCommand := by decide
theorem witness_AddressByteIsShiftedIn : (writing .getAddress).running ∧
    (writing .getAddress).bs = .hostWillWrite ∧ (writing .getAddress).ts = .getAddress ∧
    ({ writing .getAddress with acnt := 1 } : State).acnt.val < 2 := by decide
theorem witness_ThirdAddressByteChoosesThePath :
    ({ writing .getAddress with acnt := 2, cmdb := 0x03 } : State).running ∧
    ({ writing .getAddress with acnt := 2, cmdb := 0x03 } : State).bs = .hostWillWrite ∧
    ({ writing .getAddress with acnt := 2, cmdb := 0x03 } : State).ts = .getAddress ∧
    ({ writing .getAddress with acnt := 2, cmdb := 0x03 } : State).acnt = 2 := by decide
theorem witness_ThreeTransfersGiveABigEndianAddress :
    (at_ .getAddress .idle .hostWrite).running ∧ (at_ .getAddress .idle .hostWrite).bs = .idle ∧
    (at_ .getAddress .idle .hostWrite).dir = .hostWrite ∧
    (at_ .getAddress .idle .hostWrite).lnStrobe = false ∧
    (at_ .getAddress .idle .hostWrite).ts = .getAddress ∧ (at_ .getAddress .idle .hostWrite).acnt = 0 ∧
    (at_ .getAddress .idle .hostWrite).addr = 0 ∧ (at_ .getAddress .idle .hostWrite).cmdb = 0x00 := by decide
theorem witness_RetryCountByteIsStored : (writing .getReadRetryCount).running ∧
    (writing .getReadRetryCount).bs = .hostWillWrite ∧
    (writing .getReadRetryCount).ts = .getReadRetryCount := by decide
theorem witness_SparingThresholdByteFetchesTheBlock : (writing .getReadSparingThreshold).running ∧
    (writing .getReadSparingThreshold).bs = .hostWillWrite ∧
    (writing .getReadSparingThreshold).ts = .getReadSparingThreshold ∧
    ({ writing .getReadSparingThreshold with addr := 0xFFFFFE } : State).running := by decide
theorem witness_DataByteIsCollectedOrDropped : (writing .getWrittenData).running ∧
    (writing .getWrittenData).bs = .hostWillWrite ∧ (writing .getWrittenData).ts = .getWrittenData ∧
    ({ writing .getWrittenData with wcnt := 531 } : State).wcnt.val < 532 ∧
    ({ writing .getWrittenData with wcnt := 532 } : State).wcnt.val = 532 := by decide
theorem witness_DataFrameFillsTheBuffer : (at_ .getWrittenData .idle .hostWrite).running ∧
    (at_ .getWrittenData .idle .hostWrite).bs = .idle ∧
    (at_ .getWrittenData .idle .hostWrite).dir = .hostWrite ∧
    (at_ .getWrittenData .idle .hostWrite).lnStrobe = false ∧
    (at_ .getWrittenData .idle .hostWrite).ts = .getWrittenData ∧
    (at_ .getWrittenData .idle .hostWrite).wcnt = 0 ∧
    (List.replicate 532 (0xAB : Byte)).length ≤ 532 :=
  ⟨by decide, rfl, rfl, rfl, rfl, rfl, by rw [List.length_replicate]⟩
theorem witness_AcknowledgmentLeadsToTheFinishState : (writing .handshakeReadTransaction).running ∧
    (writing .handshakeReadTransaction).bs = .hostWillWrite ∧
    (writing .handshakeReadTransaction).ts = .handshakeReadTransaction := by decide
theorem witness_AckMismatchAbortsTheTransaction : (writing .handshakeTransaction).running ∧
    (writing .handshakeTransaction).bs = .hostWillWrite ∧
    (writing .handshakeTransaction).ts = .handshakeTransaction ∧ (0x54 : Byte) ≠ 0x55 := by decide
theorem witness_GoAheadRiseQueuesItsCode : State.reset.running ∧ State.reset.lnCmd = false ∧
    State.reset.ts = .awaitingCommand ∧ (at_ .awaitingReadGoahead .idle .hostWrite).running ∧
    (at_ .awaitingReadGoahead .idle .hostWrite).lnCmd = false := by decide
theorem witness_RiseDuringReadDataAbortsTheRead : (reading .handleReadData [0x01]).running ∧
    (reading .handleReadData [0x01]).lnCmd = false ∧ (reading .handleReadData [0x01]).ts = .handleReadData ∧
    (reading .handleReadStatus [0x00]).ts = .handleReadStatus := by decide
theorem witness_RiseAfterTheDataStoresTheBlock : (at_ .getWrittenData .idle .hostWrite).running ∧
    (at_ .getWrittenData .idle .hostWrite).lnCmd = false ∧
    (at_ .getWrittenData .idle .hostWrite).ts = .getWrittenData := by decide
theorem witness_ShortWriteLeavesTheTailUnspecified : (at_ .getWrittenData .idle .hostWrite).running ∧
    (at_ .getWrittenData .idle .hostWrite).lnCmd = false ∧
    (at_ .getWrittenData .idle .hostWrite).ts = .getWrittenData ∧
    (at_ .getWrittenData .idle .hostWrite).addr ≠ 0xFFFFFE ∧
    (at_ .getWrittenData .idle .hostWrite).addr ≠ 0xFFFFFF ∧
    (at_ .getWrittenData .idle .hostWrite).busy = false ∧
    ({ at_ .getWrittenData .idle .hostWrite with wcnt := 532 } : State).wcnt.val = 532 := by decide
theorem witness_DiskWriteChangesOneBlock :
    ({ at_ .getWrittenData .idle .hostWrite with sigma := .disk [(5, 0x77)] } : State).running ∧
    ({ at_ .getWrittenData .idle .hostWrite with sigma := .disk [(5, 0x77)] } : State).lnCmd = false ∧
    ({ at_ .getWrittenData .idle .hostWrite with sigma := .disk [(5, 0x77)] } : State).ts = .getWrittenData ∧
    ({ at_ .getWrittenData .idle .hostWrite with sigma := .disk [(5, 0x77)] } : State).sigma =
      .disk [(5, 0x77)] ∧
    Memory.wf [(5, 0x77)] ∧ (0 : BlockAddr) ≠ 0xFFFFFE ∧ (0 : BlockAddr) ≠ 0xFFFFFF := by decide
theorem witness_OnlyTheStoreChangesTheBlockStore : (∃ t, exec .cmdA State.reset = .next t) ∧
    ¬ (Instr.cmdA.event = .cmdA ∧ State.reset.ts = .getWrittenData) := ⟨⟨_, rfl⟩, by decide⟩
theorem witness_RiseElsewhereIsFatal : (writing .getCommand).running ∧
    (writing .getCommand).lnCmd = false ∧ (writing .getCommand).ts = .getCommand := by decide
theorem witness_NextActionIsTheRiseThatQueuesIt : State.reset.halt = false ∧
    nextActionCode .naRead = some 0x02 ∧ nextActionCode .naGetcmd = some 0x01 ∧
    riseTarget State.reset.ts = some (0x01, .startTransaction) ∧ (0x01 : Byte) ≠ 0x02 ∧
    riseTarget (writing .getCommand).ts = none ∧ ({ State.reset with halt := true } : State).halt = true := by
  decide
theorem witness_FallInAwaitingCommandHasNoEffect : ({ State.reset with lnCmd := true } : State).running ∧
    ({ State.reset with lnCmd := true } : State).lnCmd = true ∧
    ({ State.reset with lnCmd := true } : State).ts = .awaitingCommand ∧
    ({ State.reset with lnCmd := true } : State).busy = false ∧
    ({ State.reset with lnCmd := true, busy := true } : State).busy = true := by decide
theorem witness_FallEndsTheHandshake :
    ({ State.reset with ts := .finishReadHandshake, lnCmd := true, busy := true } : State).running ∧
    ({ State.reset with ts := .finishReadHandshake, lnCmd := true, busy := true } : State).lnCmd = true ∧
    ({ State.reset with ts := .finishReadHandshake, lnCmd := true, busy := true } : State).ts =
      .finishReadHandshake ∧
    ({ State.reset with ts := .finishHandshake, lnCmd := true } : State).ts = .finishHandshake ∧
    ({ State.reset with ts := .finishWriteHandshake, lnCmd := true } : State).ts = .finishWriteHandshake ∧
    ({ State.reset with ts := .finishStatusHandshake, lnCmd := true } : State).ts =
      .finishStatusHandshake := by decide
theorem witness_FallElsewhereIsFatal : ({ State.reset with ts := .startTransaction, lnCmd := true } : State).running ∧
    ({ State.reset with ts := .startTransaction, lnCmd := true } : State).lnCmd = true ∧
    ({ State.reset with ts := .startTransaction, lnCmd := true } : State).ts = .startTransaction := by decide
theorem witness_HandshakeSequenceEntersTheNextPhase : State.reset.running ∧ State.reset.bs = .idle ∧
    State.reset.lnStrobe = false ∧ State.reset.lnCmd = false ∧ State.reset.busy = false ∧
    State.reset.oq = [] ∧ State.reset.ts = .awaitingCommand := by decide
theorem witness_ReadDeliversTheStatusThenTheBlock :
    ∃ s : State, s.running ∧ s.bs = .idle ∧ s.dir = .hostRead ∧ s.lnStrobe = false ∧
      s.ts = .handleReadStatus ∧ s.oq = [0x00, 0x00, 0x00, 0x00] ++ s.buf.toList :=
  ⟨{ at_ .handleReadStatus .idle .hostRead with oq := [0x00, 0x00, 0x00, 0x00] ++ State.reset.buf.toList },
    by decide, rfl, rfl, rfl, rfl, rfl⟩

/-- A good state that is not the power-on state: a disk is wired and the host is about to raise COMMAND. -/
def wired : State := { State.powerOn .hostRead false false false (.disk [(5, 0x77)]) with stim := [.event 0x600] }

theorem wired_inv : SequencerInv wired where
  command := by decide
  addressFull := by decide
  addressPartial := by decide
  queue := by simp [queueOk, wired, State.powerOn]
  busyPhase := by decide
  settled := by decide
  path := by simp [pathOk, wired, State.powerOn]
  strobe := by decide
  commandLine := by decide
  direction := by simp [directionOk, wired, State.powerOn]
  held := by intro h; exact absurd h (by decide)
  errorRecorded := by decide
  store := by
    show Memory.wf [(5, 0x77)]
    decide

theorem witness_EveryStepKeepsTheInvariants : SequencerInv wired ∧ ∃ t, step wired = .next t :=
  ⟨wired_inv, ⟨_, rfl⟩⟩
theorem witness_NoStepFaultsUnderTheInvariants : SequencerInv wired := wired_inv
theorem witness_EveryStepKeepsTheStoreCanonical : wired.sigma.wf ∧ ∃ t, step wired = .next t :=
  ⟨wired_inv.store, ⟨_, rfl⟩⟩
theorem witness_StrobeLevelMatchesByteState :
    ∃ t, exec .stbA State.reset = .next t ∧ t.halt = false ∧ strobeMatches State.reset :=
  ⟨_, rfl, rfl, by simp [strobeMatches, State.reset, State.powerOn]⟩
theorem witness_StrobeLevelMatchesByteState_reset :
    ∃ t, exec .rstA { State.reset with halt := true } = .next t ∧ t.halt = false ∧
      ({ State.reset with halt := true } : State).lnStrobe = false :=
  ⟨_, rfl, rfl, rfl⟩
theorem witness_AdvisoryBytesAreNeverRead :
    ({ State.reset with retry := 0x0A, spare := 0x03 } : State).withoutAdvisory =
      State.reset.withoutAdvisory := rfl

end Sys2Proof.Tests
end

/-! SUPPORT. The scope family (O53, O5, O6, O12): what a step does with the next stimulus item, the values at power-on,
and the bytes of the metadata block. -/

namespace Sys2Proof.Machine

/-! ### The step, by what the host has next -/

/-- The host has nothing to say. -/
theorem fetchStimulus_nil {s : State} (h : s.stim = []) : fetchStimulus s = none := by
  simp only [fetchStimulus, h]

/-- The next item is decoded in the current phase and taken off the list. -/
theorem fetchStimulus_cons {s : State} {st : Stimulus} {rest : List Stimulus} (h : s.stim = st :: rest) :
    fetchStimulus s = some (decode (codeSpaceOf s.ts) st, { s with stim := rest }) := by
  simp only [fetchStimulus, h]

/-- Between two events nothing happens (R8). -/
theorem step_nil {s : State} (h : s.stim = []) : step s = .next s := by
  simp only [step, fetchStimulus_nil h]

/-- An item that is an instruction runs on the state without the item (R8, R93). -/
theorem step_decoded {s : State} {st : Stimulus} {rest : List Stimulus} {i : Instr}
    (hstim : s.stim = st :: rest) (hdecode : decode (codeSpaceOf s.ts) st = .ok i) :
    step s = exec i { s with stim := rest } := by
  simp only [step, fetchStimulus_cons hstim, hdecode]

/-- An item that is no instruction is refused with the decoder's reason (R91, R93). -/
theorem step_undecodable {s : State} {st : Stimulus} {rest : List Stimulus} {why : DecodeReject}
    (hstim : s.stim = st :: rest) (hdecode : decode (codeSpaceOf s.ts) st = .error why) :
    step s = .refused (.notAnInstruction why) := by
  simp only [step, fetchStimulus_cons hstim, hdecode]

/-- Settles O5: the step's equation for an item that decodes. -/
theorem stepRunsTheDecodedInstruction : Obligations.StepRunsTheDecodedInstruction :=
  fun _ _ _ _ => step_decoded

/-- Settles O6: the step's equations for no item and for an item that does not decode. -/
theorem stepWithoutAnInstruction : Obligations.StepWithoutAnInstruction :=
  ⟨fun _ => step_nil, fun _ _ _ _ => step_undecodable⟩

/-! ### Power-on -/

/-- Whatever the lines, the direction and the store are at power-on, the registers of R20 have their reset
values (R43, R262). -/
theorem atReset_powerOn (dir : ByteDirection) (reset strobe cmd : Bool) (sigma : BlockStore) :
    atReset (State.powerOn dir reset strobe cmd sigma) := by
  simp only [atReset, State.powerOn, and_self]

/-- Settles O12: the registers as at any power-on, the lines and the store as P_LN0 and P_BLOCKSTORE default. -/
theorem powerOnStateIsTheResetState : Obligations.PowerOnStateIsTheResetState :=
  ⟨atReset_powerOn .hostWrite false false false .pattern, rfl, rfl, rfl, rfl⟩

/-! ### Numbers in bytes -/

/-- The lowest `width` base-256 digits of a number, least significant first. `numberByte_bytes` ties it to the
bytes of a number field. -/
def leastFirst (n width : Nat) : List Byte := (List.range width).map fun k => BitVec.ofNat 8 (n / 256 ^ k)

/-- The least significant digit, then the digits of what is left. -/
theorem leastFirst_succ (n width : Nat) :
    leastFirst n (width + 1) = BitVec.ofNat 8 n :: leastFirst (n / 256) width := by
  simp only [leastFirst, List.range_succ_eq_map, List.map_cons, List.map_map, pow_zero, Nat.div_one]
  congr 2
  funext k
  simp only [Function.comp, pow_succ', Nat.div_div_eq_div_mul]

/-- Reading the digits back, most significant first, gives the number as far as `width` bytes hold it. -/
theorem foldl_reverse_leastFirst (n width : Nat) :
    (leastFirst n width).reverse.foldl (fun m b => m * 256 + b.toNat) 0 = n % 256 ^ width := by
  rw [List.foldl_reverse]
  induction width generalizing n with
  | zero => simp [leastFirst, Nat.mod_one]
  | succ width ih =>
    rw [leastFirst_succ, List.foldr_cons, ih, BitVec.toNat_ofNat, pow_succ' 256 width, Nat.mod_mul]
    omega

/-- The bytes of a number field are the number's digits, turned round when the most significant comes first. -/
theorem numberByte_bytes (n width : Nat) :
    (List.range width).map (numberByte n width) =
      if Config.metaBigEndian then (leastFirst n width).reverse else leastFirst n width := by
  cases order : Config.metaBigEndian with
  | false => simp [numberByte, leastFirst, order]
  | true =>
    apply List.ext_getElem
    · simp [leastFirst]
    · intro k _ _
      simp [numberByte, leastFirst, order]

/-- In either byte order a field wide enough for a number stands for that number (log entry 15). -/
theorem metaNumber_numberByte {n width : Nat} (fits : n < 256 ^ width) :
    metaNumber ((List.range width).map (numberByte n width)) = n := by
  have value := (foldl_reverse_leastFirst n width).trans (Nat.mod_eq_of_lt fits)
  rw [metaNumber, numberByte_bytes]
  cases Config.metaBigEndian with
  | false => exact value
  | true => exact value

/-! ### The metadata block -/

/-- The block begins with NAME (R6, R215). -/
theorem metaBlock_name : metaBlock.toList.take 13 = Config.deviceName.toList := by
  apply List.ext_getElem
  · simp
  · intro i hblock hname
    have inName : i < 13 := by simpa using hname
    simp [metaBlock, Vector.getD, inName]

/-- The bytes of a field, one by one. -/
theorem metaFieldBytes_eq_map (f : Config.MetaField) :
    metaFieldBytes f =
      (List.range (metaPlace f).width).map fun k => metaFieldByte f ((metaPlace f).first + k) := by
  obtain ⟨-, inside⟩ := metaPlace_bounds f
  apply List.ext_getElem
  · simp only [metaFieldBytes, List.length_take, List.length_drop, Vector.length_toList, List.length_map,
      List.length_range]
    omega
  · intro k _ hk
    have inField : k < (metaPlace f).width := by simpa using hk
    have held : (metaPlace f).holds ((metaPlace f).first + k) = true := by
      simp [MetaPlace.holds, inField]
    simp [metaFieldBytes, metaBlock_field held (by omega)]

/-- A field is as long as its place. -/
theorem length_metaFieldBytes (f : Config.MetaField) : (metaFieldBytes f).length = (metaPlace f).width := by
  rw [metaFieldBytes_eq_map, List.length_map, List.length_range]

/-- A field whose bytes are those of a number it can hold stands for that number. -/
theorem metaNumber_metaFieldBytes {f : Config.MetaField} {n : Nat} (fits : n < 256 ^ (metaPlace f).width)
    (bytes : ∀ i, metaFieldByte f i = numberByte n (metaPlace f).width (i - (metaPlace f).first)) :
    metaNumber (metaFieldBytes f) = n := by
  simp only [metaFieldBytes_eq_map, bytes, Nat.add_sub_cancel_left]
  exact metaNumber_numberByte fits

/-- No block is in the bad-block list (R215). -/
theorem mem_metaFieldBytes_badBlockList {b : Byte} (h : b ∈ metaFieldBytes .badBlockList) : b = 0xFF := by
  rw [metaFieldBytes_eq_map, List.mem_map] at h
  obtain ⟨_, -, rfl⟩ := h
  rfl

/-- Settles O53: each field of the block at its place, the two numbers read back from their bytes. -/
theorem metadataBlockBeginsWithTheName : Obligations.MetadataBlockBeginsWithTheName := by
  obtain ⟨-, -, ⟨-, countFits⟩, ⟨-, sizeFits⟩, -⟩ := metaPlace_inOrder
  exact ⟨metaBlock_name, metaPlace_inOrder, length_metaFieldBytes,
    metaNumber_metaFieldBytes countFits fun _ => rfl, capacity_range,
    metaNumber_metaFieldBytes sizeFits fun _ => rfl, fun _ => mem_metaFieldBytes_badBlockList⟩

end Sys2Proof.Machine

/-! SUPPORT. The state family (O55, O60, O15, O16, O18, O44, O57, O59, O9, O14, O24, O56): what the machine does with
an event once its line has moved, the invariants of R42 kept by it, and the bytes nothing reads. -/

namespace Sys2Proof.Machine

/-! ### Shared operations: what a halted machine, a read and a collected byte leave alone -/

/-- A halted machine keeps its state (R239). -/
theorem unlessHalted_halted {s : State} {k : State → Host.Outcome State Fault Refusal} (h : s.halt = true) :
    unlessHalted s k = .next s := by
  simp only [unlessHalted, h, if_true]

/-- Only RST.D is well formed while RESET is high (R92). -/
theorem lnReset_of_wellFormed {e : Event} {s : State} (wf : wellFormedStimulus e s = true) (h : e ≠ .rstD) :
    s.lnReset = false := by
  cases e <;> simp_all [wellFormedStimulus]

/-- A delivered byte changes at most TS and CMDV (R161 to R165). -/
theorem readNotify_frame (s : State) :
    readNotify s = { s with ts := (readNotify s).ts, cmdv := (readNotify s).cmdv } := by
  unfold readNotify
  split
  · split <;> rfl
  · split <;> rfl
  · split <;> rfl
  · split <;> rfl

/-- A data byte changes at most BUF and WCNT (R195, R196). -/
theorem takeDataByte_frame (b : Byte) (s : State) :
    takeDataByte b s = { s with buf := (takeDataByte b s).buf, wcnt := (takeDataByte b s).wcnt } := by
  unfold takeDataByte
  split <;> rfl

/-- The head of the queue put on the bus, before `readNotify` (R126). -/
def takeHead (v : Byte) (rest : List Byte) (s : State) : State :=
  { s with oq := rest, bs := .hostDidRead, rdByte := v, outputs := s.outputs ++ [.busByte v] }

@[simp] theorem takeHead_bs (v : Byte) (rest : List Byte) (s : State) : (takeHead v rest s).bs = .hostDidRead := rfl
@[simp] theorem takeHead_dir (v : Byte) (rest : List Byte) (s : State) : (takeHead v rest s).dir = s.dir := rfl
@[simp] theorem takeHead_ts (v : Byte) (rest : List Byte) (s : State) : (takeHead v rest s).ts = s.ts := rfl
@[simp] theorem takeHead_oq (v : Byte) (rest : List Byte) (s : State) : (takeHead v rest s).oq = rest := rfl

/-- A running RD with a byte queued takes the head and notifies (R126). -/
theorem hostRead_queued {s : State} {v : Byte} {rest : List Byte} (running : s.running)
    (turn : s.bs = .hostWillRead) (queued : s.oq = v :: rest) :
    hostRead s = .next (readNotify (takeHead v rest s)) := by
  obtain ⟨halt, reset⟩ := running
  have wf : wellFormedStimulus .rd s = true := by simp only [wellFormedStimulus, reset, Bool.not_false]
  simp only [hostRead, accept_wellFormed wf, driveLine, halt, turn, queued, takeHead, Bool.false_eq_true, if_false,
    ne_eq, not_true]

/-! ### The reaction to an event, its line having moved -/

/-- A written byte taken by the phase, BS having moved (R166, R167, R190 to R196). -/
inductive ByteTaken (b : Byte) : State → State → Prop where
  | command {s : State} (phase : s.ts = .getCommand) : ByteTaken b s (takeCommand b s)
  | addressPart {s : State} (phase : s.ts = .getAddress) (few : s.acnt.val < 2) :
      ByteTaken b s { s with addr := accumulateAddress s.addr b, acnt := s.acnt + 1 }
  | addressLast {s : State} {next : TransactionState} (phase : s.ts = .getAddress)
      (known : afterAddress s.cmdb = some next) :
      ByteTaken b s { s with addr := accumulateAddress s.addr b, acnt := 3, ts := next }
  | retryCount {s : State} (phase : s.ts = .getReadRetryCount) : ByteTaken b s (takeRetryCount b s)
  | sparingThreshold {s : State} (phase : s.ts = .getReadSparingThreshold) :
      ByteTaken b s (takeSparingThreshold b s)
  | data {s : State} (phase : s.ts = .getWrittenData) : ByteTaken b s (takeDataByte b s)
  | acknowledged {s : State} {finish : TransactionState} (phase : finishAfterHandshake s.ts = some finish) :
      ByteTaken b s { s with ts := finish }
  | mismatch {s : State} : ByteTaken b s (ackMismatchAbort b s)

/-- A legal COMMAND edge, LN.CMD having moved (R143 to R149, R154 to R159). -/
inductive CommandEdge : Event → State → State → Prop where
  | rise {s : State} {c : Byte} {start : TransactionState} (target : riseTarget s.ts = some (c, start))
      (notRead : s.ts ≠ .handleReadData) (notStore : s.ts ≠ .getWrittenData) :
      CommandEdge .cmdA s (beginHandshake c start s)
  | abortRead {s : State} (phase : s.ts = .handleReadData) :
      CommandEdge .cmdA s
        (beginHandshake Config.naGetcmd .startTransaction (enterAwaitingCommand (clearQueue s)))
  | store {s : State} (phase : s.ts = .getWrittenData) :
      CommandEdge .cmdA s (beginHandshake Config.naPerform .startStatusTransaction (storeCollected s))
  | fallIdle {s : State} (phase : s.ts = .awaitingCommand) : CommandEdge .cmdD s (setBusy false s)
  | fallToCommand {s : State} (phase : s.ts = .finishHandshake) :
      CommandEdge .cmdD s { setBusy false s with ts := .getCommand }
  | fallToReadStatus {s : State} (phase : s.ts = .finishReadHandshake) :
      CommandEdge .cmdD s
        { setBusy false (pushQueue (statusWord.toList ++ s.buf.toList) s) with ts := .handleReadStatus }
  | fallToWrittenData {s : State} (phase : s.ts = .finishWriteHandshake) :
      CommandEdge .cmdD s { setBusy false { s with wcnt := 0 } with ts := .getWrittenData }
  | fallToWriteStatus {s : State} (phase : s.ts = .finishStatusHandshake) :
      CommandEdge .cmdD s
        { setBusy false (pushQueue statusWord.toList s) with ts := .handleWriteStatus }

/-- What the machine does with an admitted event, its line having moved: RESET's edges, HALT, a fatal error, or
the event's own rule. `exec_reacts` ties it to `exec`. -/
inductive Reaction : Event → State → State → Prop where
  | reset {s : State} : Reaction .rstA s (resetDevice s)
  | release {s : State} : Reaction .rstD s s
  | halted {e : Event} {s : State} (notReset : e ≠ .rstA) (halt : s.halt = true) : Reaction e s s
  | haltedRead {s : State} (halt : s.halt = true) : Reaction .rd s (readUnspecified s)
  | fatal {e : Event} {s : State} (r : Report) (notReset : e ≠ .rstA) (fatal : reportFatal r = true)
      (running : s.halt = false) : Reaction e s (raise r s)
  | fatalRead {s : State} (r : Report) (fatal : reportFatal r = true) (running : s.halt = false) :
      Reaction .rd s (readUnspecified (raise r s))
  | turn {e : Event} {s : State} (d : ByteDirection) (edge : e = .dirR ∨ e = .dirW) (idle : s.bs = .idle) :
      Reaction e s { s with dir := d }
  | openRead {s : State} (idle : s.bs = .idle) (dir : s.dir = .hostRead) :
      Reaction .stbA s { s with bs := .hostWillRead }
  | openWrite {s : State} (idle : s.bs = .idle) (dir : s.dir = .hostWrite) :
      Reaction .stbA s { s with bs := .hostWillWrite }
  | close {s : State} : Reaction .stbD s { s with bs := .idle }
  | command {e : Event} {s t : State} (running : s.halt = false) (edge : CommandEdge e s t) : Reaction e s t
  | deliver {s : State} {v : Byte} {rest : List Byte} (turn : s.bs = .hostWillRead) (queued : s.oq = v :: rest) :
      Reaction .rd s (readNotify (takeHead v rest s))
  | take {b : Byte} {s t : State} (turn : s.bs = .hostWillWrite)
      (taken : ByteTaken b { s with bs := .hostDidWrite } t) : Reaction .wr s t

/-- An admitted event's next state: the stimulus was well formed and the machine reacts after its line moved. -/
def Reacts (e : Event) (s t : State) : Prop :=
  wellFormedStimulus e s = true ∧ Reaction e (driveLine e s) t

/-- The rise of RESET acts halted or not (R260). -/
theorem resetRise_reacts {s t : State} (h : execRstA s = .next t) : Reacts .rstA s t := by
  unfold execRstA at h
  obtain ⟨wf, ⟨⟩⟩ := accept_next.1 h
  exact ⟨wf, .reset⟩

/-- The fall of RESET moves the line alone (R261). -/
theorem resetFall_reacts {s t : State} (h : execRstD s = .next t) : Reacts .rstD s t := by
  unfold execRstD at h
  obtain ⟨wf, ⟨⟩⟩ := accept_next.1 h
  exact ⟨wf, .release⟩

/-- DIR.R and DIR.W, by the laws of `setDirection`. -/
theorem setDirection_reacts {e : Event} {d : ByteDirection} {s t : State} (edge : e = .dirR ∨ e = .dirW)
    (h : setDirection e d s = .next t) : Reacts e s t := by
  have notReset : e ≠ .rstA := by obtain rfl | rfl := edge <;> decide
  obtain ⟨wf, h⟩ := setDirection_next h
  refine ⟨wf, ?_⟩
  obtain ⟨halt, rfl⟩ | ⟨halt, ⟨-, rfl⟩ | ⟨idle, rfl⟩⟩ := h
  · exact .halted notReset (by simpa using halt)
  · exact .fatal _ notReset rfl (by simpa using halt)
  · exact .turn d edge (by simpa using idle)

/-- STB.A, by the laws of `strobeRise`. -/
theorem strobeRise_reacts {s t : State} (h : strobeRise s = .next t) : Reacts .stbA s t := by
  obtain ⟨wf, h⟩ := strobeRise_next h
  refine ⟨wf, ?_⟩
  obtain ⟨halt, rfl⟩ | ⟨halt, ⟨-, rfl⟩ | ⟨idle, dir, rfl⟩ | ⟨idle, dir, rfl⟩⟩ := h
  · exact .halted (s := driveLine .stbA s) (by decide) halt
  · exact .fatal (s := driveLine .stbA s) _ (by decide) rfl halt
  · exact .openRead (s := driveLine .stbA s) idle dir
  · exact .openWrite (s := driveLine .stbA s) idle dir

/-- STB.D, by the laws of `strobeFall`. -/
theorem strobeFall_reacts {s t : State} (h : strobeFall s = .next t) : Reacts .stbD s t := by
  obtain ⟨wf, h⟩ := strobeFall_next h
  refine ⟨wf, ?_⟩
  obtain ⟨halt, rfl⟩ | ⟨halt, ⟨-, rfl⟩ | ⟨-, rfl⟩⟩ := h
  · exact .halted (s := driveLine .stbD s) (by decide) halt
  · exact .close (s := driveLine .stbD s)
  · exact .fatal (s := driveLine .stbD s) _ (by decide) rfl halt

/-- CMD.A, by the laws of `commandRise`. -/
theorem commandRise_reacts {s t : State} (h : commandRise s = .next t) : Reacts .cmdA s t := by
  obtain ⟨wf, h⟩ := commandRise_next h
  refine ⟨wf, ?_⟩
  obtain ⟨halt, rfl⟩ | ⟨halt, ⟨c, start, target, notRead, notStore, rfl⟩ | ⟨phase, rfl⟩ | ⟨phase, rfl⟩ | ⟨-, rfl⟩⟩ := h
  · exact .halted (s := driveLine .cmdA s) (by decide) halt
  · exact .command (s := driveLine .cmdA s) halt (.rise target notRead notStore)
  · exact .command (s := driveLine .cmdA s) halt (.abortRead phase)
  · exact .command (s := driveLine .cmdA s) halt (.store phase)
  · exact .fatal (s := driveLine .cmdA s) _ (by decide) rfl halt

/-- CMD.D, by the laws of `commandFall`. -/
theorem commandFall_reacts {s t : State} (h : commandFall s = .next t) : Reacts .cmdD s t := by
  obtain ⟨wf, h⟩ := commandFall_next h
  refine ⟨wf, ?_⟩
  obtain ⟨halt, rfl⟩ | ⟨halt, ⟨phase, rfl⟩ | ⟨phase, rfl⟩ | ⟨phase, rfl⟩ | ⟨phase, rfl⟩ | ⟨phase, rfl⟩ |
    ⟨-, -, -, -, -, rfl⟩⟩ := h
  · exact .halted (s := driveLine .cmdD s) (by decide) halt
  · exact .command (s := driveLine .cmdD s) halt (.fallIdle phase)
  · exact .command (s := driveLine .cmdD s) halt (.fallToCommand phase)
  · exact .command (s := driveLine .cmdD s) halt (.fallToReadStatus phase)
  · exact .command (s := driveLine .cmdD s) halt (.fallToWrittenData phase)
  · exact .command (s := driveLine .cmdD s) halt (.fallToWriteStatus phase)
  · exact .fatal (s := driveLine .cmdD s) _ (by decide) rfl halt

/-- RD, by the laws of `hostRead`. -/
theorem hostRead_reacts {s t : State} (h : hostRead s = .next t) : Reacts .rd s t := by
  obtain ⟨reset, h⟩ := hostRead_next h
  refine ⟨by simp only [wellFormedStimulus, reset, Bool.not_false], ?_⟩
  obtain ⟨halt, rfl⟩ | ⟨halt, ⟨-, rfl⟩ | ⟨-, -, rfl⟩ | ⟨turn, v, rest, queued, rfl⟩⟩ := h
  · exact .haltedRead halt
  · exact .fatalRead _ rfl halt
  · exact .fatalRead _ rfl halt
  · exact .deliver turn queued

/-- Outside the third byte of an unknown command an address byte is taken. -/
theorem takeAddressByte_taken {b : Byte} {s t : State} (phase : s.ts = .getAddress)
    (known : unknownCommandDue s = false) (h : takeAddressByte b s = .next t) : ByteTaken b s t := by
  obtain ⟨-, next, path, rfl⟩ | ⟨last, unknown, -⟩ | ⟨few, rfl⟩ := takeAddressByte_next h
  · exact .addressLast phase path
  · simp [unknownCommandDue, phase, last, unknown] at known
  · exact .addressPart phase few

/-- Either byte of an acknowledgment is taken (R166, R167). -/
theorem takeAcknowledge_taken {b : Byte} {s : State} {finish : TransactionState}
    (phase : finishAfterHandshake s.ts = some finish) : ByteTaken b s (takeAcknowledge finish b s) := by
  unfold takeAcknowledge
  split
  · exact .acknowledged phase
  · exact .mismatch

/-- WR, by the laws of `hostWrite`: three checks, then the byte is taken. -/
theorem hostWrite_reacts {b : Byte} {s t : State} (h : hostWrite b s = .next t) : Reacts .wr s t := by
  obtain ⟨reset, h⟩ := hostWrite_next h
  refine ⟨by simp only [wellFormedStimulus, reset, Bool.not_false], ?_⟩
  obtain ⟨halt, rfl⟩ | ⟨halt, ⟨-, rfl⟩ | ⟨-, -, rfl⟩ | ⟨-, -, rfl⟩ | taken⟩ := h
  · exact .halted (by decide) halt
  · exact .fatal _ (by decide) rfl halt
  · exact .fatal _ (by decide) rfl halt
  · exact .fatal _ (by decide) rfl halt
  · obtain ⟨turn, phase, rfl⟩ | ⟨turn, phase, known, h⟩ | ⟨turn, phase, rfl⟩ | ⟨turn, phase, rfl⟩ |
      ⟨turn, phase, rfl⟩ | ⟨turn, finish, phase, rfl⟩ := taken
    · exact .take (b := b) turn (.command phase)
    · exact .take (b := b) turn (takeAddressByte_taken phase known h)
    · exact .take (b := b) turn (.retryCount phase)
    · exact .take (b := b) turn (.sparingThreshold phase)
    · exact .take (b := b) turn (.data phase)
    · exact .take (b := b) turn (takeAcknowledge_taken phase)

/-- Every next state of every instruction: a reaction to the event that carries it (R90, R92). -/
theorem exec_reacts {i : Instr} {s t : State} (h : exec i s = .next t) : Reacts i.event s t := by
  cases i with
  | rstA => exact resetRise_reacts h
  | rstD => exact resetFall_reacts h
  | dirR => exact setDirection_reacts (.inl rfl) h
  | dirW => exact setDirection_reacts (.inr rfl) h
  | stbA => exact strobeRise_reacts h
  | stbD => exact strobeFall_reacts h
  | cmdD => exact commandFall_reacts h
  | rd => exact hostRead_reacts h
  | cmdA => exact commandRise_reacts h
  | naGetcmd | naRead | naWrdata | naWrvdata | naPerform =>
    exact commandRise_reacts (issueNextAction_next h)
  | wr | cmdUnknown | ackMismatch | read | write | writeVerify | ack => exact hostWrite_reacts h

/-- The instruction RST.A is the one its event carries. -/
theorem event_eq_rstA {i : Instr} : i.event = .rstA ↔ i = .rstA := by
  cases i <;> simp [Instr.event]

/-! ### Lines, ERR, HALT and the BlockStore across a reaction -/

/-- The registers of the byte layer, the lines and HALT are the same. -/
structure SameByteLayer (s t : State) : Prop where
  bs : t.bs = s.bs
  dir : t.dir = s.dir
  halt : t.halt = s.halt
  lnReset : t.lnReset = s.lnReset
  lnStrobe : t.lnStrobe = s.lnStrobe
  lnCmd : t.lnCmd = s.lnCmd

/-- What a phase does with a byte is no business of the byte layer. -/
theorem ByteTaken.sameByteLayer {b : Byte} {s t : State} (h : ByteTaken b s t) : SameByteLayer s t := by
  cases h with
  | data => rw [takeDataByte_frame]; exact ⟨rfl, rfl, rfl, rfl, rfl, rfl⟩
  | mismatch => exact ⟨rfl, rfl, Bool.or_false _, rfl, rfl, rfl⟩
  | command | addressPart | addressLast | retryCount | sparingThreshold | acknowledged =>
    exact ⟨rfl, rfl, rfl, rfl, rfl, rfl⟩

/-- The COMMAND edges do not consult or move BS (R172). -/
theorem CommandEdge.sameByteLayer {e : Event} {s t : State} (h : CommandEdge e s t) : SameByteLayer s t := by
  cases h <;> exact ⟨rfl, rfl, rfl, rfl, rfl, rfl⟩

/-- Nor does the notification of a read. -/
theorem readNotify_sameByteLayer (s : State) : SameByteLayer s (readNotify s) := by
  rw [readNotify_frame]
  exact ⟨rfl, rfl, rfl, rfl, rfl, rfl⟩

/-- Once a line has moved, nothing else moves a line. -/
theorem Reaction.lines {e : Event} {s t : State} (h : Reaction e s t) :
    t.lnReset = s.lnReset ∧ t.lnStrobe = s.lnStrobe ∧ t.lnCmd = s.lnCmd := by
  cases h with
  | command _ edge => exact ⟨edge.sameByteLayer.lnReset, edge.sameByteLayer.lnStrobe, edge.sameByteLayer.lnCmd⟩
  | take _ taken => exact ⟨taken.sameByteLayer.lnReset, taken.sameByteLayer.lnStrobe, taken.sameByteLayer.lnCmd⟩
  | @deliver s v rest =>
    have same := readNotify_sameByteLayer (takeHead v rest s)
    exact ⟨same.lnReset, same.lnStrobe, same.lnCmd⟩
  | reset | release | halted | haltedRead | fatal | fatalRead | turn | openRead | openWrite | close =>
    exact ⟨rfl, rfl, rfl⟩

/-- The three levels after an admitted event (R36, R92). -/
theorem Reacts.lines {e : Event} {s t : State} (h : Reacts e s t) :
    t.lnReset = (if e = .rstA then true else if e = .rstD then false else s.lnReset) ∧
    t.lnStrobe = (if e = .stbA then true else if e = .stbD then false else s.lnStrobe) ∧
    t.lnCmd = (if e = .cmdA then true else if e = .cmdD then false else s.lnCmd) := by
  obtain ⟨-, reaction⟩ := h
  have lines := reaction.lines
  rw [driveLine_levels] at lines
  exact lines

/-- Settles O15: the levels after a reaction are those the event drove. -/
theorem linesFollowTheirEdges : Obligations.LinesFollowTheirEdges :=
  fun _ _ _ h => (exec_reacts h).lines

/-- A latched code is not replaced (R34). -/
theorem latchError_of_ne {old new : ErrCode} (h : old ≠ .noError) : latchError old new = old := if_neg h

/-- Latching a code leaves one (R34, R236). -/
theorem latchError_ne (old : ErrCode) (r : Report) : latchError old (reportCode r) ≠ .noError := by
  unfold latchError
  split
  · cases r <;> exact ErrCode.noConfusion
  · assumption

/-- ERR after a byte: as before, or latched by a mismatch. -/
theorem ByteTaken.err {b : Byte} {s t : State} (h : ByteTaken b s t) :
    t.err = s.err ∨ t.err = latchError s.err .ackMismatch := by
  cases h with
  | mismatch => exact .inr rfl
  | data => rw [takeDataByte_frame]; exact .inl rfl
  | command | addressPart | addressLast | retryCount | sparingThreshold | acknowledged => exact .inl rfl

/-- The COMMAND edges keep ERR. -/
theorem CommandEdge.err {e : Event} {s t : State} (h : CommandEdge e s t) : t.err = s.err := by
  cases h <;> rfl

/-- Delivering a byte keeps ERR. -/
theorem readNotify_err (s : State) : (readNotify s).err = s.err := by rw [readNotify_frame]

/-- Only RST.A changes a code in ERR (R34, R240). -/
theorem Reaction.err {e : Event} {s t : State} (h : Reaction e s t) (notReset : e ≠ .rstA)
    (recorded : s.err ≠ .noError) : t.err = s.err := by
  cases h with
  | reset => exact absurd rfl notReset
  | fatal | fatalRead => exact latchError_of_ne recorded
  | command _ edge => exact edge.err
  | deliver => exact readNotify_err _
  | take _ taken => exact taken.err.elim id fun latched => latched.trans (latchError_of_ne recorded)
  | release | halted | haltedRead | turn | openRead | openWrite | close => rfl

/-- Only RST.A clears HALT, and only a fatal error sets it, which leaves a code in ERR (R35, R236, R240). -/
theorem Reaction.halt {e : Event} {s t : State} (h : Reaction e s t) (notReset : e ≠ .rstA) :
    t.halt = s.halt ∨ (s.halt = false ∧ t.halt = true ∧ t.err ≠ .noError) := by
  cases h with
  | reset => exact absurd rfl notReset
  | fatal r _ fatal running | fatalRead r fatal running =>
    exact .inr ⟨running, by simp [fatal], latchError_ne _ r⟩
  | command _ edge => exact .inl edge.sameByteLayer.halt
  | @deliver s v rest => exact .inl (readNotify_sameByteLayer (takeHead v rest s)).halt
  | take _ taken => exact .inl taken.sameByteLayer.halt
  | release | halted | haltedRead | turn | openRead | openWrite | close => exact .inl rfl

/-- A machine that runs after an event other than RST.A ran before it. -/
theorem Reacts.running_before {e : Event} {s t : State} (h : Reacts e s t) (notReset : e ≠ .rstA)
    (running : t.halt = false) : s.halt = false := by
  obtain ⟨-, reaction⟩ := h
  obtain same | ⟨-, halted, -⟩ := reaction.halt notReset
  · rw [← running, same, driveLine_halt]
  · simp [running] at halted

/-- Settles O18: a code in ERR and a set HALT pass every reaction but RST.A's. -/
theorem errAndHaltAreClearedOnlyByReset : Obligations.ErrAndHaltAreClearedOnlyByReset := by
  intro i s t h other
  have notReset : i.event ≠ .rstA := fun e => other (event_eq_rstA.1 e)
  obtain ⟨-, reaction⟩ := exec_reacts h
  refine ⟨fun recorded => ?_, fun halted => ?_⟩
  · exact (reaction.err notReset (by rwa [driveLine_err])).trans (driveLine_err s i.event)
  · obtain same | ⟨-, halt, -⟩ := reaction.halt notReset
    · rw [same, driveLine_halt, halted]
    · exact halt

/-- The addresses that are not reserved are all but the two of R61. -/
theorem isReserved_eq_false_iff {a : BlockAddr} : isReserved a = false ↔ a ≠ 0xFFFFFE ∧ a ≠ 0xFFFFFF := by
  simp only [isReserved, Config.metaAddrLo, Config.metaAddrHi, Bool.or_eq_false_iff, beq_eq_false_iff_ne]

/-- A byte taken keeps the BlockStore. -/
theorem ByteTaken.sigma {b : Byte} {s t : State} (h : ByteTaken b s t) : t.sigma = s.sigma := by
  cases h with
  | data => rw [takeDataByte_frame]
  | command | addressPart | addressLast | retryCount | sparingThreshold | acknowledged | mismatch => rfl

/-- Of the COMMAND edges the rise in GetWrittenData alone writes the BlockStore, at ADDR, unless ADDR is reserved
(R67, R149). -/
theorem CommandEdge.sigma {e : Event} {s t : State} (h : CommandEdge e s t) :
    t.sigma = s.sigma ∨
    (e = .cmdA ∧ s.ts = .getWrittenData ∧ isReserved s.addr = false ∧
      t.sigma = storeWrite s.sigma s.addr (collectedBlock s)) := by
  cases h with
  | store phase =>
    cases reserved : isReserved s.addr with
    | true => exact .inl (by simp [reserved])
    | false => exact .inr ⟨rfl, phase, rfl, by simp [reserved]⟩
  | rise | abortRead | fallIdle | fallToCommand | fallToReadStatus | fallToWrittenData | fallToWriteStatus =>
    exact .inl rfl

/-- A reaction keeps the BlockStore but for the store of a running machine (R45, R67). -/
theorem Reaction.sigma {e : Event} {s t : State} (h : Reaction e s t) :
    t.sigma = s.sigma ∨
    (e = .cmdA ∧ s.ts = .getWrittenData ∧ s.halt = false ∧ isReserved s.addr = false ∧
      t.sigma = storeWrite s.sigma s.addr (collectedBlock s)) := by
  cases h with
  | command running edge =>
    obtain same | ⟨rise, phase, free, stored⟩ := edge.sigma
    · exact .inl same
    · exact .inr ⟨rise, phase, running, free, stored⟩
  | take _ taken => exact .inl taken.sigma
  | deliver => rw [readNotify_frame]; exact .inl rfl
  | reset | release | halted | haltedRead | fatal | fatalRead | turn | openRead | openWrite | close => exact .inl rfl

/-- Settles O44: the one reaction that writes the BlockStore is the one the premise leaves out. -/
theorem onlyTheStoreChangesTheBlockStore : Obligations.OnlyTheStoreChangesTheBlockStore := by
  intro i s t h notStore
  have same : t.sigma = s.sigma := by
    obtain ⟨-, reaction⟩ := exec_reacts h
    have stored := reaction.sigma
    simp only [driveLine_sigma, driveLine_ts, driveLine_halt, driveLine_addr] at stored
    obtain same | ⟨rise, phase, running, free, -⟩ := stored
    · exact same
    · exact absurd ⟨rise, phase, running, isReserved_eq_false_iff.1 free⟩ notStore
  exact ⟨same, fun a k => by rw [same]⟩

/-- A reaction keeps the canonical form of the BlockStore's contents. -/
theorem Reaction.store_wf {e : Event} {s t : State} (h : Reaction e s t) (wf : s.sigma.wf) : t.sigma.wf := by
  obtain same | ⟨-, -, -, -, stored⟩ := h.sigma
  · rwa [same]
  · rw [stored]
    exact storeWrite_wf wf s.addr _

/-! ### BS and STROBE (R42(e), R124, R125) -/

/-- A COMMAND edge is an edge of COMMAND. -/
theorem CommandEdge.event {e : Event} {s t : State} (h : CommandEdge e s t) : e = .cmdA ∨ e = .cmdD := by
  cases h with
  | rise | abortRead | store => exact .inl rfl
  | fallIdle | fallToCommand | fallToReadStatus | fallToWrittenData | fallToWriteStatus => exact .inr rfl

/-- While no fatal error stops the machine STB.A leaves BS other than Idle, STB.D leaves it Idle, and every other
event but RST.A keeps whether it is Idle. -/
theorem Reaction.idle_iff {e : Event} {s t : State} (h : Reaction e s t) (notReset : e ≠ .rstA)
    (running : t.halt = false) :
    t.bs = .idle ↔ if e = .stbA then False else if e = .stbD then True else s.bs = .idle := by
  cases h with
  | reset => exact absurd rfl notReset
  | halted _ halt => simp [halt] at running
  | haltedRead halt => simp [halt] at running
  | fatal r _ fatal | fatalRead r fatal => simp [fatal] at running
  | release => simp
  | turn d edge idle => obtain rfl | rfl := edge <;> simp
  | openRead | openWrite | close => simp
  | command _ edge => obtain rfl | rfl := edge.event <;> simp [edge.sameByteLayer.bs]
  | @deliver s v rest turn => simp [(readNotify_sameByteLayer (takeHead v rest s)).bs, turn]
  | take turn taken => simp [taken.sameByteLayer.bs, turn]

/-- After an event that leaves the machine running, BS is Idle where STB.D just came or BS was Idle and STB.A did
not come. -/
theorem Reacts.idle_iff {e : Event} {s t : State} (h : Reacts e s t) (notReset : e ≠ .rstA)
    (running : t.halt = false) :
    t.bs = .idle ↔ if e = .stbA then False else if e = .stbD then True else s.bs = .idle := by
  obtain ⟨-, reaction⟩ := h
  rw [reaction.idle_iff notReset running, driveLine_bs]

/-- RST.A leaves the registers at their reset values (R260). -/
theorem atReset_resetDevice (s : State) : atReset (resetDevice s) := by
  simp only [atReset, resetDevice_ts, resetDevice_bs, resetDevice_cmdv, resetDevice_cmdb, resetDevice_addr,
    resetDevice_acnt, resetDevice_retry, resetDevice_spare, resetDevice_wcnt, resetDevice_oq, resetDevice_busy,
    resetDevice_err, resetDevice_halt, and_self]

/-- RST.A re-initialises whatever the state (R260). -/
theorem Reaction.eq_resetDevice {s t : State} (h : Reaction .rstA s t) : t = resetDevice s := by
  cases h with
  | reset => rfl
  | halted notReset | fatal _ notReset => exact absurd rfl notReset
  | turn _ edge => simp at edge
  | command _ edge => simpa using edge.event

/-- Settles O59: BS and LN.STROBE answer the same question about the event. -/
theorem strobeLevelMatchesByteState : Obligations.StrobeLevelMatchesByteState := by
  intro i s t h running
  have reacts := exec_reacts h
  obtain ⟨-, strobe, -⟩ := reacts.lines
  refine ⟨fun other before => ?_, fun reset low => ?_⟩
  · have notReset : i.event ≠ .rstA := fun e => other (event_eq_rstA.1 e)
    unfold strobeMatches at before ⊢
    rw [reacts.idle_iff notReset running, strobe]
    split
    · simp
    · split
      · simp
      · exact before
  · subst reset
    obtain ⟨-, reaction⟩ := reacts
    rw [Reaction.eq_resetDevice reaction]
    exact ⟨fun _ => low, fun _ => rfl⟩

/-! ### The invariants of the phase -/

/-- The clauses of `SequencerInv` about the transaction: TS, CMDV, CMDB, ACNT, OQ, BUF and BUSY.
`SequencerInv.phase` ties it to the invariants. -/
structure PhaseInv (s : State) : Prop where
  command : s.cmdv = true ↔ 5 ≤ tsNumber s.ts
  addressFull : 6 ≤ tsNumber s.ts → s.acnt = 3
  addressPartial : s.ts = .getAddress → s.acnt.val < 3
  queue : queueOk s
  busyPhase : s.busy = inHandshake s.ts
  settled : s.ts ≠ .awaitingStatusGoahead
  path : pathOk s

/-- The clauses about the transaction, of the sequencer's invariants. -/
theorem SequencerInv.phase {s : State} (h : SequencerInv s) : PhaseInv s :=
  ⟨h.command, h.addressFull, h.addressPartial, h.queue, h.busyPhase, h.settled, h.path⟩

/-- The registers that `PhaseInv` speaks of. -/
def phaseRegisters (s : State) : TransactionState × Bool × Byte × Fin 4 × List Byte × Block × Bool :=
  (s.ts, s.cmdv, s.cmdb, s.acnt, s.oq, s.buf, s.busy)

/-- A state with the same registers of the transaction meets the same invariants. -/
theorem PhaseInv.of_registers {s t : State} (h : PhaseInv s) (same : phaseRegisters t = phaseRegisters s) :
    PhaseInv t := by
  simp only [phaseRegisters, Prod.mk.injEq] at same
  obtain ⟨ts, cmdv, cmdb, acnt, oq, buf, busy⟩ := same
  obtain ⟨command, addressFull, addressPartial, queue, busyPhase, settled, path⟩ := h
  refine ⟨by rwa [cmdv, ts], by rwa [ts, acnt], by rwa [ts, acnt], ?_, by rwa [busy, ts], by rwa [ts], ?_⟩
  · simpa only [queueOk, ts, oq, buf] using queue
  · simpa only [pathOk, ts, cmdb] using path

/-- In a phase before GetAddress no command has been read, so no path is claimed (R140). -/
theorem pathOk_of_lt {s : State} (early : tsNumber s.ts < 5) : pathOk s := by
  cases phase : s.ts <;> simp [pathOk, phase, tsNumber] at early ⊢

/-- With no command in flight only the queue and BUSY are left to check. -/
theorem PhaseInv.of_noCommand {t : State} (b : TransactionState) (early : tsNumber b < 5) (target : t.ts = b)
    (cmdv : t.cmdv = false) (queue : queueOk t) (busy : t.busy = inHandshake b) : PhaseInv t where
  command := by simp [cmdv, target, early]
  addressFull late := by rw [target] at late; omega
  addressPartial phase := by simp [← target, phase, tsNumber] at early
  queue := queue
  busyPhase := by rw [busy, target]
  settled phase := by simp [← target, phase, tsNumber] at early
  path := pathOk_of_lt (by rwa [target])

/-- The phases of a command whose address is complete, the transient one left out (R42(b), R41(b)). -/
abbrev addressed (b : TransactionState) : Prop := 6 ≤ tsNumber b ∧ b ≠ .awaitingStatusGoahead

/-- With a command in flight and its address complete the queue, BUSY and the path are left to check. -/
theorem PhaseInv.of_command {t : State} (b : TransactionState) (late : addressed b) (target : t.ts = b)
    (cmdv : t.cmdv = true) (acnt : t.acnt = 3) (queue : queueOk t) (busy : t.busy = inHandshake b)
    (path : pathOk t) : PhaseInv t where
  command := by rw [cmdv, target]; simp only [true_iff]; omega
  addressFull _ := acnt
  addressPartial phase := by simp [← target, phase, addressed, tsNumber] at late
  queue := queue
  busyPhase := by rw [busy, target]
  settled phase := late.2 (target.symm.trans phase)
  path := path

/-- From one phase of a command to another the command stays in flight and its address complete. -/
theorem PhaseInv.advance {s t : State} (h : PhaseInv s) (a b : TransactionState) (late : addressed a ∧ addressed b)
    (source : s.ts = a) (target : t.ts = b) (cmdv : t.cmdv = s.cmdv) (acnt : t.acnt = s.acnt) (queue : queueOk t)
    (busy : t.busy = inHandshake b) (path : pathOk t) : PhaseInv t := by
  obtain ⟨⟨before, -⟩, after⟩ := late
  have inFlight : s.cmdv = true := by rw [h.command, source]; omega
  exact .of_command b after target (cmdv.trans inFlight) (acnt.trans (h.addressFull (source ▸ before))) queue busy path

/-- CMDV in a given phase. -/
theorem PhaseInv.cmdv_of {s : State} (h : PhaseInv s) {a : TransactionState} (phase : s.ts = a) :
    s.cmdv = decide (5 ≤ tsNumber a) := by
  rw [← phase, Bool.eq_iff_iff, decide_eq_true_iff]
  exact h.command

/-- BUSY in a given phase. -/
theorem PhaseInv.busy_of {s : State} (h : PhaseInv s) {a : TransactionState} (phase : s.ts = a) :
    s.busy = inHandshake a := phase ▸ h.busyPhase

/-- The phases in which a byte is queued for the host: the Start states and the three deliveries. -/
def queuePhase : TransactionState → Bool
  | .handleReadStatus => true
  | .handleReadData => true
  | .handleWriteStatus => true
  | ts => (handshakeAfterStart ts).isSome

/-- In every other phase the queue is empty (R42(c)). -/
theorem queueOk_iff_of_quiet {s : State} (quiet : queuePhase s.ts = false) : queueOk s ↔ s.oq = [] := by
  cases phase : s.ts <;> simp [queueOk, phase, queuePhase, handshakeAfterStart] at quiet ⊢

/-- The queue in a given phase that queues nothing. -/
theorem PhaseInv.oq_nil {s : State} (h : PhaseInv s) {a : TransactionState} (phase : s.ts = a)
    (quiet : queuePhase a = false) : s.oq = [] := (queueOk_iff_of_quiet (phase ▸ quiet)).1 h.queue

/-! ### A byte taken by the phase -/

/-- The three paths of R192, as a table. -/
theorem afterAddress_eq_some {c : Byte} {next : TransactionState} (h : afterAddress c = some next) :
    (c = Config.cmdRead ∧ next = .getReadRetryCount) ∨ (c = Config.cmdWrite ∧ next = .awaitingWriteGoahead) ∨
    (c = Config.cmdWriteVerify ∧ next = .awaitingWriteVerifyGoahead) := by
  unfold afterAddress at h
  split at h
  · exact .inl ⟨‹_›, by simpa using h.symm⟩
  split at h
  · exact .inr (.inl ⟨‹_›, by simpa using h.symm⟩)
  split at h
  · exact .inr (.inr ⟨‹_›, by simpa using h.symm⟩)
  · simp at h

/-- The four acknowledgments of R166, as a table. -/
theorem finishAfterHandshake_eq_some {ts finish : TransactionState} (h : finishAfterHandshake ts = some finish) :
    (ts = .handshakeTransaction ∧ finish = .finishHandshake) ∨
    (ts = .handshakeReadTransaction ∧ finish = .finishReadHandshake) ∨
    (ts = .handshakeWriteTransaction ∧ finish = .finishWriteHandshake) ∨
    (ts = .handshakeStatusTransaction ∧ finish = .finishStatusHandshake) := by
  cases ts <;> simp [finishAfterHandshake] at h ⊢ <;> exact h.symm

/-- The third byte of an address starts the path of its command (R192). -/
theorem PhaseInv.addressLast {s : State} (inv : PhaseInv s) {next : TransactionState} (a : BlockAddr)
    (phase : s.ts = .getAddress) (known : afterAddress s.cmdb = some next) :
    PhaseInv { s with addr := a, acnt := 3, ts := next } := by
  have cmdv := inv.cmdv_of phase
  have oq := inv.oq_nil phase rfl
  have busy := inv.busy_of phase
  obtain ⟨cmdb, rfl⟩ | ⟨cmdb, rfl⟩ | ⟨cmdb, rfl⟩ := afterAddress_eq_some known
  · exact .of_command .getReadRetryCount (by decide) rfl cmdv rfl oq busy cmdb
  · exact .of_command .awaitingWriteGoahead (by decide) rfl cmdv rfl oq busy cmdb
  · exact .of_command .awaitingWriteVerifyGoahead (by decide) rfl cmdv rfl oq busy cmdb

/-- The acknowledgment enters the Finish state of its handshake (R166). -/
theorem PhaseInv.acknowledged {s : State} (inv : PhaseInv s) {finish : TransactionState}
    (handshake : finishAfterHandshake s.ts = some finish) : PhaseInv { s with ts := finish } := by
  have path := inv.path
  obtain ⟨phase, rfl⟩ | ⟨phase, rfl⟩ | ⟨phase, rfl⟩ | ⟨phase, rfl⟩ := finishAfterHandshake_eq_some handshake <;>
    have oq := inv.oq_nil phase rfl <;> have busy := inv.busy_of phase <;> simp only [pathOk, phase] at path
  · exact .of_noCommand .finishHandshake (by decide) rfl (inv.cmdv_of phase) oq busy
  · exact inv.advance .handshakeReadTransaction .finishReadHandshake (by decide) phase rfl rfl rfl oq busy path
  · exact inv.advance .handshakeWriteTransaction .finishWriteHandshake (by decide) phase rfl rfl rfl oq busy path
  · exact inv.advance .handshakeStatusTransaction .finishStatusHandshake (by decide) phase rfl rfl rfl oq busy path

/-- A byte taken keeps the invariants of the phase. -/
theorem ByteTaken.phaseInv {b : Byte} {s t : State} (h : ByteTaken b s t) (inv : PhaseInv s) : PhaseInv t := by
  have path := inv.path
  cases h with
  | command phase =>
    have busy : s.busy = false := inv.busy_of phase
    exact ⟨by simp [tsNumber], by simp [tsNumber], by simp, inv.oq_nil phase rfl, busy, by simp, trivial⟩
  | addressPart phase few =>
    refine ⟨inv.command, fun late => ?_, fun _ => ?_, inv.queue, inv.busyPhase, inv.settled, inv.path⟩
    · simp [phase, tsNumber] at late
    · simp only [Fin.val_add]
      omega
  | addressLast phase known => exact inv.addressLast _ phase known
  | retryCount phase =>
    simp only [pathOk, phase] at path
    have busy := inv.busy_of phase
    exact inv.advance .getReadRetryCount .getReadSparingThreshold (by decide) phase rfl rfl rfl
      (inv.oq_nil phase rfl) busy path
  | sparingThreshold phase =>
    simp only [pathOk, phase] at path
    have busy := inv.busy_of phase
    exact inv.advance .getReadSparingThreshold .awaitingReadGoahead (by decide) phase rfl rfl rfl
      (inv.oq_nil phase rfl) busy path
  | data phase =>
    rw [takeDataByte_frame]
    exact inv.advance .getWrittenData .getWrittenData (by decide) phase phase rfl rfl
      ((queueOk_iff_of_quiet (by simp only [phase]; rfl)).2 (inv.oq_nil phase rfl)) (inv.busy_of phase) path
  | acknowledged phase => exact inv.acknowledged phase
  | mismatch => exact .of_noCommand .awaitingCommand (by decide) rfl rfl rfl rfl

/-! ### A COMMAND edge -/

/-- The rises of R142, as a table. -/
theorem riseTarget_eq_some {ts start : TransactionState} {c : Byte} (h : riseTarget ts = some (c, start)) :
    (ts = .awaitingCommand ∧ c = Config.naGetcmd ∧ start = .startTransaction) ∨
    (ts = .awaitingReadGoahead ∧ c = Config.naRead ∧ start = .startReadTransaction) ∨
    (ts = .awaitingWriteGoahead ∧ c = Config.naWrdata ∧ start = .startWriteTransaction) ∨
    (ts = .awaitingWriteVerifyGoahead ∧ c = Config.naWrvdata ∧ start = .startWriteVerifyTransaction) ∨
    ts = .handleReadData ∨ ts = .getWrittenData ∨ ts = .awaitingStatusGoahead := by
  cases ts <;> simp [riseTarget] at h ⊢ <;> exact ⟨h.1.symm, h.2.symm⟩

/-- A rise from an empty queue queues one code. -/
theorem beginHandshake_oq_of_nil {s : State} (c : Byte) (start : TransactionState) (empty : s.oq = []) :
    (beginHandshake c start s).oq = [c] := by
  rw [beginHandshake_oq, empty, List.nil_append]

/-- A rise in a go-ahead phase enters its Start state with its code queued (R143 to R147). -/
theorem PhaseInv.rise {s : State} (inv : PhaseInv s) {c : Byte} {start : TransactionState}
    (target : riseTarget s.ts = some (c, start)) (notRead : s.ts ≠ .handleReadData)
    (notStore : s.ts ≠ .getWrittenData) : PhaseInv (beginHandshake c start s) := by
  have path := inv.path
  obtain ⟨phase, rfl, rfl⟩ | ⟨phase, rfl, rfl⟩ | ⟨phase, rfl, rfl⟩ | ⟨phase, rfl, rfl⟩ | phase | phase | phase :=
    riseTarget_eq_some target <;> simp only [pathOk, phase] at path
  · exact .of_noCommand .startTransaction (by decide) rfl (inv.cmdv_of phase)
      (beginHandshake_oq_of_nil _ _ (inv.oq_nil phase rfl)) rfl
  · exact inv.advance .awaitingReadGoahead .startReadTransaction (by decide) phase rfl rfl rfl
      (beginHandshake_oq_of_nil _ _ (inv.oq_nil phase rfl)) rfl path
  · exact inv.advance .awaitingWriteGoahead .startWriteTransaction (by decide) phase rfl rfl rfl
      (beginHandshake_oq_of_nil _ _ (inv.oq_nil phase rfl)) rfl path
  · exact inv.advance .awaitingWriteVerifyGoahead .startWriteVerifyTransaction (by decide) phase rfl rfl rfl
      (beginHandshake_oq_of_nil _ _ (inv.oq_nil phase rfl)) rfl path
  · exact absurd phase notRead
  · exact absurd phase notStore
  · exact absurd phase inv.settled

/-- A legal COMMAND edge keeps the invariants of the phase. -/
theorem CommandEdge.phaseInv {e : Event} {s t : State} (h : CommandEdge e s t) (inv : PhaseInv s) : PhaseInv t := by
  have path := inv.path
  cases h with
  | rise target notRead notStore => exact inv.rise target notRead notStore
  | abortRead => exact .of_noCommand .startTransaction (by decide) rfl rfl rfl rfl
  | store phase =>
    simp only [pathOk, phase] at path
    exact inv.advance .getWrittenData .startStatusTransaction (by decide) phase rfl rfl rfl
      (beginHandshake_oq_of_nil (s := storeCollected s) _ _ (inv.oq_nil phase rfl)) rfl path
  | fallIdle phase =>
    exact .of_noCommand .awaitingCommand (by decide) phase (inv.cmdv_of phase)
      ((queueOk_iff_of_quiet (by simp only [setBusy_ts, phase]; rfl)).2 (inv.oq_nil phase rfl)) rfl
  | fallToCommand phase =>
    exact .of_noCommand .getCommand (by decide) rfl (inv.cmdv_of phase) (inv.oq_nil phase rfl) rfl
  | fallToReadStatus phase =>
    simp only [pathOk, phase] at path
    have queue : s.oq ++ (statusWord.toList ++ s.buf.toList) = (statusWord.toList ++ s.buf.toList).drop 0 := by
      rw [inv.oq_nil phase rfl, List.nil_append, List.drop_zero]
    exact inv.advance .finishReadHandshake .handleReadStatus (by decide) phase rfl rfl rfl
      ⟨0, by decide, queue⟩ rfl path
  | fallToWrittenData phase =>
    simp only [pathOk, phase] at path
    exact inv.advance .finishWriteHandshake .getWrittenData (by decide) phase rfl rfl rfl
      (inv.oq_nil phase rfl) rfl path
  | fallToWriteStatus phase =>
    simp only [pathOk, phase] at path
    have queue : s.oq ++ statusWord.toList = statusWord.toList.drop 0 := by
      rw [inv.oq_nil phase rfl, List.nil_append, List.drop_zero]
    exact inv.advance .finishStatusHandshake .handleWriteStatus (by decide) phase rfl rfl rfl
      ⟨0, by decide, queue⟩ rfl path

/-! ### A byte delivered -/

/-- The Start states and the Handshake states after them (R161), as a table. -/
theorem handshakeAfterStart_eq_some {ts next : TransactionState} (h : handshakeAfterStart ts = some next) :
    (ts = .startTransaction ∧ next = .handshakeTransaction) ∨
    (ts = .startReadTransaction ∧ next = .handshakeReadTransaction) ∨
    (ts = .startWriteTransaction ∧ next = .handshakeWriteTransaction) ∨
    (ts = .startWriteVerifyTransaction ∧ next = .handshakeWriteTransaction) ∨
    (ts = .startStatusTransaction ∧ next = .handshakeStatusTransaction) := by
  cases ts <;> simp [handshakeAfterStart] at h ⊢ <;> exact h.symm

/-- A byte delivered in a Start state enters the Handshake state (R161). -/
theorem readNotify_start {s : State} {next : TransactionState} (start : handshakeAfterStart s.ts = some next) :
    readNotify s = { s with ts := next } := by
  obtain ⟨phase, rfl⟩ | ⟨phase, rfl⟩ | ⟨phase, rfl⟩ | ⟨phase, rfl⟩ | ⟨phase, rfl⟩ :=
    handshakeAfterStart_eq_some start <;> simp only [readNotify, phase, handshakeAfterStart]

/-- The status bytes end where the block is left (R162). -/
theorem readNotify_readStatus {s : State} (phase : s.ts = .handleReadStatus) :
    readNotify s = if s.oq.length = 532 then { s with ts := .handleReadData } else s := by
  simp only [readNotify, phase]

/-- The last byte of the block ends the transaction (R163). -/
theorem readNotify_readData {s : State} (phase : s.ts = .handleReadData) :
    readNotify s = if s.oq.length = 0 then enterAwaitingCommand s else s := by
  simp only [readNotify, phase]

/-- The last status byte of a write ends the transaction (R164). -/
theorem readNotify_writeStatus {s : State} (phase : s.ts = .handleWriteStatus) :
    readNotify s = if s.oq.length = 0 then enterAwaitingCommand s else s := by
  simp only [readNotify, phase]

/-- Nothing follows a byte delivered in AwaitingCommand (R165). -/
theorem readNotify_awaitingCommand {s : State} (phase : s.ts = .awaitingCommand) : readNotify s = s := by
  simp only [readNotify, phase, handshakeAfterStart]

/-- What is left of a tail of a list after its head. -/
theorem drop_succ_of_cons {l rest : List Byte} {v : Byte} {k : Nat} (h : v :: rest = l.drop k) :
    rest = l.drop (k + 1) := by
  rw [← List.tail_drop, ← h, List.tail_cons]

/-- Where a byte is queued: a Start state, whose one code it is, or a delivery, of which a tail is left (R42(c)). -/
theorem queueOk_cons {s : State} {v : Byte} {rest : List Byte} (queue : queueOk s) (queued : s.oq = v :: rest) :
    ((∃ next, handshakeAfterStart s.ts = some next) ∧ rest = []) ∨
    (s.ts = .handleReadStatus ∧ ∃ k < 4, rest = (statusWord.toList ++ s.buf.toList).drop (k + 1)) ∨
    (s.ts = .handleReadData ∧ ∃ k < 532, rest = s.buf.toList.drop (k + 1)) ∨
    (s.ts = .handleWriteStatus ∧ ∃ k < 4, rest = statusWord.toList.drop (k + 1)) := by
  cases phase : s.ts <;> simp only [queueOk, phase, queued] at queue
  case handleReadStatus =>
    obtain ⟨k, few, left⟩ := queue
    exact .inr (.inl ⟨rfl, k, few, drop_succ_of_cons left⟩)
  case handleReadData =>
    obtain ⟨k, few, left⟩ := queue
    exact .inr (.inr (.inl ⟨rfl, k, few, drop_succ_of_cons left⟩))
  case handleWriteStatus =>
    obtain ⟨k, few, left⟩ := queue
    exact .inr (.inr (.inr ⟨rfl, k, few, drop_succ_of_cons left⟩))
  case startTransaction | startReadTransaction | startWriteTransaction | startWriteVerifyTransaction
      | startStatusTransaction =>
    exact .inl ⟨⟨_, rfl⟩, (List.cons.inj queue).2⟩
  all_goals exact absurd queue (List.cons_ne_nil v rest)

/-- The one code of a Start state delivered: its handshake goes on with nothing queued (R161). -/
theorem PhaseInv.deliverCode {s : State} (inv : PhaseInv s) (v : Byte) {next : TransactionState}
    (start : handshakeAfterStart s.ts = some next) : PhaseInv (readNotify (takeHead v [] s)) := by
  have path := inv.path
  rw [readNotify_start (s := takeHead v [] s) start]
  obtain ⟨phase, rfl⟩ | ⟨phase, rfl⟩ | ⟨phase, rfl⟩ | ⟨phase, rfl⟩ | ⟨phase, rfl⟩ :=
    handshakeAfterStart_eq_some start <;> have busy := inv.busy_of phase <;> simp only [pathOk, phase] at path
  · exact .of_noCommand .handshakeTransaction (by decide) rfl (inv.cmdv_of phase) rfl busy
  · exact inv.advance .startReadTransaction .handshakeReadTransaction (by decide) phase rfl rfl rfl rfl busy path
  · exact inv.advance .startWriteTransaction .handshakeWriteTransaction (by decide) phase rfl rfl rfl rfl busy
      (.inl path)
  · exact inv.advance .startWriteVerifyTransaction .handshakeWriteTransaction (by decide) phase rfl rfl rfl rfl busy
      (.inr path)
  · exact inv.advance .startStatusTransaction .handshakeStatusTransaction (by decide) phase rfl rfl rfl rfl busy path

/-- A status byte of a read delivered: the block comes after the fourth (R162). -/
theorem PhaseInv.deliverReadStatus {s : State} (inv : PhaseInv s) (v : Byte) {rest : List Byte}
    (phase : s.ts = .handleReadStatus) {k : Nat} (few : k < 4)
    (left : rest = (statusWord.toList ++ s.buf.toList).drop (k + 1)) :
    PhaseInv (readNotify (takeHead v rest s)) := by
  have path := inv.path
  have busy := inv.busy_of phase
  have length : rest.length = 536 - (k + 1) := by simp [left]
  simp only [pathOk, phase] at path
  rw [readNotify_readStatus (s := takeHead v rest s) phase, takeHead_oq]
  split
  · obtain rfl : k = 3 := by omega
    exact inv.advance .handleReadStatus .handleReadData (by decide) phase rfl rfl rfl ⟨0, by decide, left⟩ busy path
  · have queue : queueOk (takeHead v rest s) := by
      simp only [queueOk, takeHead_ts, phase]
      exact ⟨k + 1, by omega, left⟩
    exact inv.advance .handleReadStatus .handleReadStatus (by decide) phase phase rfl rfl queue busy inv.path

/-- A data byte of a read delivered: the transaction ends with the last (R163). -/
theorem PhaseInv.deliverReadData {s : State} (inv : PhaseInv s) (v : Byte) {rest : List Byte}
    (phase : s.ts = .handleReadData) {k : Nat} (left : rest = s.buf.toList.drop (k + 1)) :
    PhaseInv (readNotify (takeHead v rest s)) := by
  have busy := inv.busy_of phase
  have length : rest.length = 532 - (k + 1) := by simp [left]
  rw [readNotify_readData (s := takeHead v rest s) phase, takeHead_oq]
  split
  · exact .of_noCommand .awaitingCommand (by decide) rfl rfl (List.length_eq_zero_iff.1 ‹_›) busy
  · have queue : queueOk (takeHead v rest s) := by
      simp only [queueOk, takeHead_ts, phase]
      exact ⟨k + 1, by omega, left⟩
    exact inv.advance .handleReadData .handleReadData (by decide) phase phase rfl rfl queue busy inv.path

/-- A status byte of a write delivered: the transaction ends with the last (R164). -/
theorem PhaseInv.deliverWriteStatus {s : State} (inv : PhaseInv s) (v : Byte) {rest : List Byte}
    (phase : s.ts = .handleWriteStatus) {k : Nat} (left : rest = statusWord.toList.drop (k + 1)) :
    PhaseInv (readNotify (takeHead v rest s)) := by
  have busy := inv.busy_of phase
  have length : rest.length = 4 - (k + 1) := by simp [left]
  rw [readNotify_writeStatus (s := takeHead v rest s) phase, takeHead_oq]
  split
  · exact .of_noCommand .awaitingCommand (by decide) rfl rfl (List.length_eq_zero_iff.1 ‹_›) busy
  · have queue : queueOk (takeHead v rest s) := by
      simp only [queueOk, takeHead_ts, phase]
      exact ⟨k + 1, by omega, left⟩
    exact inv.advance .handleWriteStatus .handleWriteStatus (by decide) phase phase rfl rfl queue busy inv.path

/-- A byte delivered keeps the invariants of the phase. -/
theorem PhaseInv.deliver {s : State} (inv : PhaseInv s) {v : Byte} {rest : List Byte} (queued : s.oq = v :: rest) :
    PhaseInv (readNotify (takeHead v rest s)) := by
  obtain ⟨⟨next, start⟩, rfl⟩ | ⟨phase, k, few, left⟩ | ⟨phase, k, -, left⟩ | ⟨phase, k, -, left⟩ :=
    queueOk_cons inv.queue queued
  · exact inv.deliverCode v start
  · exact inv.deliverReadStatus v phase few left
  · exact inv.deliverReadData v phase left
  · exact inv.deliverWriteStatus v phase left

/-- Every reaction keeps the invariants of the phase. -/
theorem Reaction.phaseInv {e : Event} {s t : State} (h : Reaction e s t) (inv : PhaseInv s) : PhaseInv t := by
  cases h with
  | reset => exact .of_noCommand .awaitingCommand (by decide) rfl rfl rfl rfl
  | command _ edge => exact edge.phaseInv inv
  | deliver _ queued => exact inv.deliver queued
  | take _ taken => exact taken.phaseInv (inv.of_registers rfl)
  | release | halted | haltedRead | fatal | fatalRead | turn | openRead | openWrite | close =>
    exact inv.of_registers rfl

/-! ### The invariants of the lines, and every step -/

/-- The registers at their reset values meet the invariants, whatever the lines (R42, R260, R262). -/
theorem SequencerInv.of_atReset {s : State} (h : atReset s) (store : s.sigma.wf) : SequencerInv s := by
  have reset := h
  obtain ⟨ts, bs, cmdv, -, -, -, -, -, -, oq, busy, -, halt⟩ := h
  have phase : PhaseInv s :=
    .of_noCommand .awaitingCommand (by decide) ts cmdv ((queueOk_iff_of_quiet (by rw [ts]; rfl)).2 oq) busy
  exact { phase with
    strobe := fun _ transfer => absurd bs transfer
    commandLine := fun _ inTransaction => absurd ts inTransaction
    direction := by simp only [directionOk, bs]
    held := fun _ => reset
    errorRecorded := fun halted => by simp [halt] at halted
    store := store }

/-- Settles O56: power-on is at the reset values, with the default store. -/
theorem resetMeetsTheInvariants : Obligations.ResetMeetsTheInvariants :=
  .of_atReset (atReset_powerOn .hostWrite false false false .pattern) trivial

/-- DIR agrees with a transfer in progress after every reaction (R130). -/
theorem Reaction.directionOk {e : Event} {s t : State} (h : Reaction e s t) (before : directionOk s) :
    directionOk t := by
  cases h with
  | reset | close => trivial
  | turn _ _ idle => simp only [Machine.directionOk, idle]
  | openRead _ dir => exact dir
  | openWrite _ dir => exact dir
  | command _ edge => simpa only [Machine.directionOk, edge.sameByteLayer.bs, edge.sameByteLayer.dir] using before
  | @deliver s v rest turn =>
    have same := readNotify_sameByteLayer (takeHead v rest s)
    have dir : s.dir = .hostRead := by simpa only [Machine.directionOk, turn] using before
    simpa only [Machine.directionOk, same.bs, same.dir, takeHead_bs, takeHead_dir] using dir
  | take turn taken =>
    have dir : s.dir = .hostWrite := by simpa only [Machine.directionOk, turn] using before
    simpa only [Machine.directionOk, taken.sameByteLayer.bs, taken.sameByteLayer.dir] using dir
  | release | halted | haltedRead | fatal | fatalRead => exact before

/-- BUSY after a legal COMMAND edge is the level of COMMAND (R143, R154, R171). -/
theorem CommandEdge.busy {e : Event} {s t : State} (h : CommandEdge e s t) : t.busy = decide (e = .cmdA) := by
  cases h <;> rfl

/-- A byte taken keeps BUSY unless it ends the transaction. -/
theorem ByteTaken.busy {b : Byte} {s t : State} (h : ByteTaken b s t) (after : t.ts ≠ .awaitingCommand) :
    t.busy = s.busy := by
  cases h with
  | mismatch => exact absurd rfl after
  | data => rw [takeDataByte_frame]
  | command | addressPart | addressLast | retryCount | sparingThreshold | acknowledged => rfl

/-- A byte is taken only inside a transaction. -/
theorem ByteTaken.inTransaction {b : Byte} {s t : State} (h : ByteTaken b s t) (after : t.ts ≠ .awaitingCommand) :
    s.ts ≠ .awaitingCommand := by
  cases h with
  | mismatch => exact absurd rfl after
  | command phase | addressPart phase | addressLast phase | retryCount phase | sparingThreshold phase | data phase =>
    simp [phase]
  | acknowledged handshake =>
    intro phase
    simp [phase, finishAfterHandshake] at handshake

/-- After a reaction outside AwaitingCommand that leaves the machine running: BUSY has followed an edge of COMMAND,
or the transaction goes on with the same BUSY. -/
theorem Reaction.busy {e : Event} {s t : State} (h : Reaction e s t) (running : t.halt = false)
    (after : t.ts ≠ .awaitingCommand) :
    ((e = .cmdA ∨ e = .cmdD) ∧ t.busy = decide (e = .cmdA)) ∨
    (e ≠ .cmdA ∧ e ≠ .cmdD ∧ s.ts ≠ .awaitingCommand ∧ t.busy = s.busy) := by
  cases h with
  | reset => exact absurd rfl after
  | halted _ halt => simp [halt] at running
  | haltedRead halt => simp [halt] at running
  | fatal r _ fatal | fatalRead r fatal => simp [fatal] at running
  | command _ edge => exact .inl ⟨edge.event, edge.busy⟩
  | turn d edge => obtain rfl | rfl := edge <;> exact .inr ⟨by decide, by decide, after, rfl⟩
  | release | openRead | openWrite | close => exact .inr ⟨by decide, by decide, after, rfl⟩
  | @deliver s v rest =>
    refine .inr ⟨by decide, by decide, fun phase => after ?_, by rw [readNotify_frame]; rfl⟩
    rw [readNotify_awaitingCommand (s := takeHead v rest s) phase, takeHead_ts, phase]
  | take _ taken => exact .inr ⟨by decide, by decide, taken.inTransaction after, taken.busy after⟩

/-- ERR is set under HALT after every reaction (R236). -/
theorem Reaction.errorRecorded {e : Event} {s t : State} (h : Reaction e s t) (notReset : e ≠ .rstA)
    (before : s.halt = true → s.err ≠ .noError) (halted : t.halt = true) : t.err ≠ .noError := by
  obtain same | ⟨-, -, recorded⟩ := h.halt notReset
  · have recorded := before (same.symm.trans halted)
    rwa [h.err notReset recorded]
  · exact recorded

/-- A line that moves touches no register of the transaction. -/
theorem phaseRegisters_driveLine (e : Event) (s : State) : phaseRegisters (driveLine e s) = phaseRegisters s := by
  cases e <;> rfl

/-- A line that moves touches neither BS nor DIR. -/
theorem directionOk_driveLine {e : Event} {s : State} : directionOk (driveLine e s) ↔ directionOk s := by
  simp only [directionOk, driveLine_bs, driveLine_dir]

/-- A transfer in progress has STROBE high after every event but RST.A (R124). -/
theorem Reacts.strobe {e : Event} {s t : State} (h : Reacts e s t) (notReset : e ≠ .rstA)
    (before : s.halt = false → s.bs ≠ .idle → s.lnStrobe = true) (running : t.halt = false) (busy : t.bs ≠ .idle) :
    t.lnStrobe = true := by
  obtain ⟨-, lnStrobe, -⟩ := h.lines
  have idle := h.idle_iff notReset running
  rw [lnStrobe]
  split
  · rfl
  · rename_i notRise
    rw [if_neg notRise] at idle
    split
    · rename_i fall
      exact absurd (idle.2 (by simp only [fall, if_true])) busy
    · rename_i notFall
      rw [if_neg notFall] at idle
      exact before (h.running_before notReset running) (fun wasIdle => busy (idle.2 wasIdle))

/-- COMMAND agrees with BUSY inside a transaction after every event but RST.A (R171). -/
theorem Reacts.commandLine {e : Event} {s t : State} (h : Reacts e s t) (notReset : e ≠ .rstA)
    (before : s.halt = false → s.ts ≠ .awaitingCommand → s.lnCmd = s.busy) (running : t.halt = false)
    (after : t.ts ≠ .awaitingCommand) : t.lnCmd = t.busy := by
  obtain ⟨-, -, lnCmd⟩ := h.lines
  have ran := h.running_before notReset running
  obtain ⟨-, reaction⟩ := h
  obtain ⟨rfl | rfl, busy⟩ | ⟨notRise, notFall, inTransaction, busy⟩ := reaction.busy running after
  · rw [lnCmd, busy]; rfl
  · rw [lnCmd, busy]; rfl
  · rw [driveLine_ts] at inTransaction
    rw [lnCmd, busy, if_neg notRise, if_neg notFall, driveLine_busy]
    exact before ran inTransaction

/-- RESET is low after every admitted event but RST.A (R92). -/
theorem Reacts.lnReset_low {e : Event} {s t : State} (h : Reacts e s t) (notReset : e ≠ .rstA) :
    t.lnReset = false := by
  obtain ⟨lnReset, -, -⟩ := h.lines
  obtain ⟨wf, -⟩ := h
  rw [lnReset, if_neg notReset]
  split
  · rfl
  · exact lnReset_of_wellFormed wf ‹_›

/-- Every reaction to an admitted event keeps the invariants of the sequencer. -/
theorem Reacts.sequencerInv {e : Event} {s t : State} (h : Reacts e s t) (inv : SequencerInv s) :
    SequencerInv t := by
  have ⟨_, reaction⟩ := h
  have store : t.sigma.wf := reaction.store_wf (by rw [driveLine_sigma]; exact inv.store)
  obtain rfl | notReset := eq_or_ne e .rstA
  · rw [Reaction.eq_resetDevice reaction] at store ⊢
    exact .of_atReset (atReset_resetDevice _) store
  · have phase := reaction.phaseInv (inv.phase.of_registers (phaseRegisters_driveLine e s))
    exact { phase with
      strobe := h.strobe notReset inv.strobe
      commandLine := h.commandLine notReset inv.commandLine
      direction := reaction.directionOk (directionOk_driveLine.2 inv.direction)
      held := fun high => by simp [h.lnReset_low notReset] at high
      errorRecorded := reaction.errorRecorded notReset (by simpa using inv.errorRecorded)
      store := store }

/-- A step to a next state: nothing to do, or the next item's instruction on the state without the item (R8). -/
theorem step_next {s t : State} (h : step s = .next t) :
    t = s ∨ ∃ (i : Instr) (rest : List Stimulus), exec i { s with stim := rest } = .next t := by
  cases stim : s.stim with
  | nil =>
    rw [step_nil stim] at h
    cases h
    exact .inl rfl
  | cons st rest =>
    cases item : decode (codeSpaceOf s.ts) st with
    | ok i => exact .inr ⟨i, rest, (step_decoded stim item).symm.trans h⟩
    | error why => rw [step_undecodable stim item] at h; cases h

/-- The invariants do not speak of the host's stimulus. -/
theorem SequencerInv.withStim {s : State} (inv : SequencerInv s) (rest : List Stimulus) :
    SequencerInv { s with stim := rest } :=
  { inv.phase.of_registers (t := { s with stim := rest }) rfl with
    strobe := inv.strobe, commandLine := inv.commandLine, direction := inv.direction, held := inv.held
    errorRecorded := inv.errorRecorded, store := inv.store }

/-- Settles O55: what an instruction does is a reaction, and every reaction keeps the invariants. -/
theorem everyStepKeepsTheInvariants : Obligations.EveryStepKeepsTheInvariants := by
  intro s t inv h
  obtain rfl | ⟨i, rest, h⟩ := step_next h
  · exact inv
  · exact (exec_reacts h).sequencerInv (inv.withStim rest)

/-! ### Faults -/

/-- The one fault needs a fourth address byte (R27). -/
theorem exec_fault {i : Instr} {s : State} {f : Fault} (h : exec i s = .fault f) :
    s.ts = .getAddress ∧ s.acnt = 3 := by
  cases i with
  | rstA => exact nomatch (accept_fault (e := .rstA) (k := fun s => .next (resetDevice s)).1 h).2
  | rstD => exact nomatch (accept_fault (e := .rstD) (k := fun s => .next s).1 h).2
  | dirR | dirW => exact absurd h (setDirection_ne_fault _ _ s f)
  | stbA => exact absurd h (strobeRise_ne_fault s f)
  | stbD => exact absurd h (strobeFall_ne_fault s f)
  | cmdA => exact absurd h (commandRise_ne_fault s f)
  | cmdD => exact absurd h (commandFall_ne_fault s f)
  | rd => exact absurd h (hostRead_ne_fault s f)
  | naGetcmd | naRead | naWrdata | naWrvdata | naPerform => exact absurd h (issueNextAction_ne_fault _ s f)
  | wr | cmdUnknown | ackMismatch | read | write | writeVerify | ack => exact hostWrite_fault h

/-- A step that faults is an instruction that faults. -/
theorem step_fault {s : State} {f : Fault} (h : step s = .fault f) :
    ∃ (i : Instr) (rest : List Stimulus), exec i { s with stim := rest } = .fault f := by
  cases stim : s.stim with
  | nil => rw [step_nil stim] at h; cases h
  | cons st rest =>
    cases item : decode (codeSpaceOf s.ts) st with
    | ok i => exact ⟨i, rest, (step_decoded stim item).symm.trans h⟩
    | error why => rw [step_undecodable stim item] at h; cases h

/-- Settles O57: in GetAddress fewer than three bytes have been accumulated (R42(b)). -/
theorem noStepFaultsUnderTheInvariants : Obligations.NoStepFaultsUnderTheInvariants := by
  intro s f inv h
  obtain ⟨i, rest, h⟩ := step_fault h
  obtain ⟨phase, full⟩ := exec_fault h
  have few := inv.addressPartial phase
  simp [show s.acnt = 3 from full] at few

/-! ### Single events: refused, halted, reset, read -/

/-- A next-action instruction is carried by the COMMAND rise (R95, R143). -/
theorem exec_nextAction {i : Instr} {c : Byte} (h : nextActionCode i = some c) :
    i.event = .cmdA ∧ ∀ s, exec i s = issueNextAction c s := by
  cases i <;> cases h <;> exact ⟨rfl, fun _ => rfl⟩

/-- Under HALT a next-action instruction is the rise, whatever its code (log entry 8). -/
theorem issueNextAction_halted (c : Byte) {s : State} (halt : s.halt = true) :
    issueNextAction c s = exec .cmdA s := by
  unfold issueNextAction
  split
  · exact if_pos (.inr halt)
  · rfl

/-- Every other instruction puts its event through `accept` first, and all but RST.A and RD stop at HALT next
(R241). -/
theorem exec_eq_accept {i : Instr} (plain : nextActionCode i = none) (s : State) :
    ∃ k, exec i s = accept i.event s k ∧
      ∀ u, u.halt = true → i.event ≠ .rstA → i.event ≠ .rd → k u = .next u := by
  cases i with
  | naGetcmd | naRead | naWrdata | naWrvdata | naPerform => cases plain
  | rstA => exact ⟨_, show execRstA s = accept .rstA s _ from rfl, fun _ _ notReset _ => absurd rfl notReset⟩
  | rstD => exact ⟨_, show execRstD s = accept .rstD s _ from rfl, fun _ _ _ _ => rfl⟩
  | rd => exact ⟨_, show hostRead s = accept .rd s _ from rfl, fun _ _ _ notRead => absurd rfl notRead⟩
  | dirR => exact ⟨_, show setDirection .dirR .hostRead s = accept .dirR s _ from rfl,
      fun _ halt _ _ => unlessHalted_halted halt⟩
  | dirW => exact ⟨_, show setDirection .dirW .hostWrite s = accept .dirW s _ from rfl,
      fun _ halt _ _ => unlessHalted_halted halt⟩
  | stbA => exact ⟨_, show strobeRise s = accept .stbA s _ from rfl, fun _ halt _ _ => unlessHalted_halted halt⟩
  | stbD => exact ⟨_, show strobeFall s = accept .stbD s _ from rfl, fun _ halt _ _ => unlessHalted_halted halt⟩
  | cmdA => exact ⟨_, show commandRise s = accept .cmdA s _ from rfl, fun _ halt _ _ => unlessHalted_halted halt⟩
  | cmdD => exact ⟨_, show commandFall s = accept .cmdD s _ from rfl, fun _ halt _ _ => unlessHalted_halted halt⟩
  | wr | cmdUnknown | ackMismatch | read | write | writeVerify | ack =>
    exact ⟨_, show hostWrite _ s = accept .wr s _ from rfl, fun _ halt _ _ => unlessHalted_halted halt⟩

/-- Ill-formed stimulus is refused by the event's name (R92, R263). -/
theorem exec_illFormed {i : Instr} {s : State} (plain : nextActionCode i = none)
    (h : wellFormedStimulus i.event s = false) : exec i s = .refused (.illFormedStimulus i.event) := by
  obtain ⟨k, eq, -⟩ := exec_eq_accept plain s
  rw [eq, accept_illFormed h]

/-- A rise of COMMAND that is no edge is refused in the next-action form too (R92, R95). -/
theorem issueNextAction_illFormed (c : Byte) {s : State} (h : wellFormedStimulus .cmdA s = false) :
    ∃ r, issueNextAction c s = .refused r := by
  have refused : commandRise s = .refused (.illFormedStimulus .cmdA) := exec_illFormed (i := .cmdA) rfl h
  unfold issueNextAction
  split
  · split
    · exact ⟨_, refused⟩
    · exact ⟨_, rfl⟩
  · exact ⟨_, refused⟩

/-- Settles O14: each of the six events is ill formed where its line has the level already. -/
theorem edgesThatDoNotChangeTheirLineAreRefused : Obligations.EdgesThatDoNotChangeTheirLineAreRefused := by
  intro s
  refine ⟨fun line => exec_illFormed (i := .rstA) rfl ?_, fun line => exec_illFormed (i := .rstD) rfl ?_,
    fun line => exec_illFormed (i := .stbA) rfl ?_, fun line => exec_illFormed (i := .stbD) rfl ?_,
    fun line => exec_illFormed (i := .cmdA) rfl ?_, fun line => exec_illFormed (i := .cmdD) rfl ?_,
    fun i carried line => ?_⟩
  case refine_7 =>
    have illFormed : wellFormedStimulus .cmdA s = false := by simp [wellFormedStimulus, line]
    cases code : nextActionCode i with
    | none => exact ⟨_, exec_illFormed code (carried ▸ illFormed)⟩
    | some c => rw [(exec_nextAction code).2]; exact issueNextAction_illFormed c illFormed
  all_goals simp [Instr.event, wellFormedStimulus, line]

/-- A halted machine follows its lines: every event but RST.A and RD moves its line and nothing else (R35, R239). -/
theorem exec_halted {i : Instr} {s : State} (halt : s.halt = true) (wf : wellFormedStimulus i.event s = true)
    (notReset : i.event ≠ .rstA) (notRead : i.event ≠ .rd) : exec i s = .next (driveLine i.event s) := by
  have follows : ∀ {j : Instr}, nextActionCode j = none → j.event = i.event →
      exec j s = .next (driveLine i.event s) := by
    intro j plain carried
    obtain ⟨k, eq, stops⟩ := exec_eq_accept plain s
    rw [carried] at eq stops
    rw [eq, accept_wellFormed wf, stops _ (by rwa [driveLine_halt]) notReset notRead]
  cases code : nextActionCode i with
  | none => exact follows code rfl
  | some c =>
    obtain ⟨carried, eq⟩ := exec_nextAction code
    rw [eq, issueNextAction_halted c halt]
    exact follows rfl carried.symm

/-- RST.A with RESET low re-initialises (R260). -/
theorem exec_rstA {s : State} (low : s.lnReset = false) :
    exec .rstA s = .next (resetDevice (driveLine .rstA s)) := by
  have wf : wellFormedStimulus .rstA s = true := by simp only [wellFormedStimulus, low, Bool.not_false]
  simp only [exec, execRstA, accept_wellFormed wf]

/-- RD under HALT returns an unspecified byte (R239, U4). -/
theorem exec_rd_halted {s : State} (low : s.lnReset = false) (halt : s.halt = true) :
    exec .rd s = .next (readUnspecified s) := by
  have wf : wellFormedStimulus .rd s = true := by simp only [wellFormedStimulus, low, Bool.not_false]
  simp only [exec, execRd, hostRead, accept_wellFormed wf, driveLine, halt, if_true]

/-- Settles O16: RST.A and RD by their own rules, every other event by `exec_halted`. -/
theorem haltedMachineOnlyFollowsItsLines : Obligations.HaltedMachineOnlyFollowsItsLines := by
  intro s halt
  refine ⟨fun low => ⟨_, exec_rstA low, atReset_resetDevice _⟩, fun high => ?_, fun low => ⟨fun i quiet => ?_,
    fun level => ?_, fun level => ?_, fun level i carried => ?_, fun level => ?_, exec_rd_halted low halt⟩⟩
  · exact exec_halted (i := .rstD) halt high (by decide) (by decide)
  · obtain carried | carried | carried := quiet
    all_goals
      have followed := exec_halted (i := i) halt (by simp [carried, wellFormedStimulus, low]) (by simp [carried])
        (by simp [carried])
      rwa [carried] at followed
  · exact exec_halted (i := .stbA) halt (by simp [Instr.event, wellFormedStimulus, low, level]) (by decide) (by decide)
  · exact exec_halted (i := .stbD) halt (by simp [Instr.event, wellFormedStimulus, low, level]) (by decide) (by decide)
  · have followed := exec_halted (i := i) halt (by simp [carried, wellFormedStimulus, low, level]) (by simp [carried])
      (by simp [carried])
    rwa [carried] at followed
  · exact exec_halted (i := .cmdD) halt (by simp [Instr.event, wellFormedStimulus, low, level]) (by decide) (by decide)

/-- Settles O9: the BUF of `resetDevice` is the draw of the counter, byte by byte. -/
theorem resetRiseLeavesBufFree : Obligations.ResetRiseLeavesBufFree :=
  fun _ low => ⟨_, exec_rstA low, rfl, fun k h => blockOf_getElem _ k h⟩

/-- Settles O24: the head of the queue is taken, and what `readNotify` does is in TS and CMDV. -/
theorem readReturnsTheHeadOfTheQueue : Obligations.ReadReturnsTheHeadOfTheQueue :=
  fun s v rest running turn queued =>
    ⟨_, hostRead_queued running turn queued, readNotify_frame (takeHead v rest s)⟩

/-! ### The advisory bytes (R28) -/

/-- An event's handling in which RETRY and SPARE play no part: with them erased before, the outcome is the same but
for them. -/
def AdvisoryBlind (k : State → Host.Outcome State Fault Refusal) : Prop :=
  ∀ s, mapOutcome State.withoutAdvisory (k s.withoutAdvisory) = mapOutcome State.withoutAdvisory (k s)

/-- A blind function gives states that differ in the advisory bytes alone outcomes that do so too. -/
theorem AdvisoryBlind.agree {k : State → Host.Outcome State Fault Refusal} (blind : AdvisoryBlind k) {s u : State}
    (same : s.withoutAdvisory = u.withoutAdvisory) :
    mapOutcome State.withoutAdvisory (k s) = mapOutcome State.withoutAdvisory (k u) := by
  rw [← blind s, same, blind u]

/-- The stimulus is judged without the advisory bytes. -/
theorem wellFormedStimulus_withoutAdvisory (e : Event) (s : State) :
    wellFormedStimulus e s.withoutAdvisory = wellFormedStimulus e s := by
  cases e <;> rfl

/-- A line moves without them. -/
theorem driveLine_withoutAdvisory (e : Event) (s : State) :
    driveLine e s.withoutAdvisory = (driveLine e s).withoutAdvisory := by
  cases e <;> rfl

/-- `accept` adds no use of the advisory bytes. -/
theorem AdvisoryBlind.accept {k : State → Host.Outcome State Fault Refusal} (blind : AdvisoryBlind k) (e : Event) :
    AdvisoryBlind fun s => Machine.accept e s k := by
  intro s
  simp only [Machine.accept, wellFormedStimulus_withoutAdvisory, driveLine_withoutAdvisory]
  split
  · exact blind _
  · rfl

/-- Nor does the check of HALT. -/
theorem AdvisoryBlind.unlessHalted {k : State → Host.Outcome State Fault Refusal} (blind : AdvisoryBlind k) :
    AdvisoryBlind fun s => Machine.unlessHalted s k := by
  intro s
  have halt : s.withoutAdvisory.halt = s.halt := rfl
  simp only [Machine.unlessHalted, halt]
  split
  · rfl
  · exact blind s

/-- A choice that does not look at the advisory bytes, between two blind functions, is blind. -/
theorem AdvisoryBlind.ite {c : State → Prop} [DecidablePred c] {k l : State → Host.Outcome State Fault Refusal}
    (choice : ∀ s : State, c s.withoutAdvisory ↔ c s) (whenTrue : AdvisoryBlind k) (whenFalse : AdvisoryBlind l) :
    AdvisoryBlind fun s => if c s then k s else l s := by
  intro s
  simp only [choice]
  split
  · exact whenTrue s
  · exact whenFalse s

/-- So is a next state that depends on them in themselves only. -/
theorem AdvisoryBlind.next {f : State → State}
    (h : ∀ s : State, (f s.withoutAdvisory).withoutAdvisory = (f s).withoutAdvisory) :
    AdvisoryBlind fun s => .next (f s) :=
  fun s => congrArg Host.Outcome.next (h s)

/-- A direction event looks at BS alone. -/
theorem setDirection_blind (e : Event) (d : ByteDirection) : AdvisoryBlind (setDirection e d) :=
  .accept (.unlessHalted (.ite (fun _ => Iff.rfl) (.next fun _ => rfl) (.next fun _ => rfl))) e

/-- A STROBE rise looks at BS and DIR. -/
theorem strobeRise_blind : AdvisoryBlind strobeRise := by
  refine .accept (.unlessHalted (.ite (fun _ => Iff.rfl) (.next fun _ => rfl) fun s => ?_)) .stbA
  obtain ⟨_, _, dir⟩ := s
  cases dir <;> rfl

/-- So does a STROBE fall. -/
theorem strobeFall_blind : AdvisoryBlind strobeFall :=
  .accept (.unlessHalted (.ite (fun _ => Iff.rfl) (.next fun _ => rfl) (.next fun _ => rfl))) .stbD

/-- A COMMAND rise looks at TS, and the handshake or store it starts keeps the advisory bytes. -/
theorem commandRise_blind : AdvisoryBlind commandRise := by
  refine .accept (.unlessHalted fun s => ?_) .cmdA
  obtain ⟨ts⟩ := s
  cases ts <;> rfl

/-- A COMMAND fall looks at TS, and the phase it enters keeps the advisory bytes. -/
theorem commandFall_blind : AdvisoryBlind commandFall := by
  refine .accept (.unlessHalted fun s => ?_) .cmdD
  obtain ⟨ts⟩ := s
  cases ts <;> rfl

/-- A next-action instruction looks at TS and HALT. -/
theorem issueNextAction_blind (c : Byte) : AdvisoryBlind (issueNextAction c) := by
  intro s
  have ts : s.withoutAdvisory.ts = s.ts := rfl
  have halt : s.withoutAdvisory.halt = s.halt := rfl
  simp only [issueNextAction, ts, halt]
  split
  · split
    · exact commandRise_blind s
    · rfl
  · exact commandRise_blind s

/-- The notification of a read looks at TS and OQ. -/
theorem readNotify_withoutAdvisory (s : State) :
    (readNotify s.withoutAdvisory).withoutAdvisory = (readNotify s).withoutAdvisory := by
  have ts : s.withoutAdvisory.ts = s.ts := rfl
  have oq : s.withoutAdvisory.oq = s.oq := rfl
  simp only [readNotify, ts, oq]
  split
  · split <;> rfl
  · split <;> rfl
  · split <;> rfl
  · split <;> rfl

/-- A read looks at HALT, BS, OQ and TS. -/
theorem hostRead_blind : AdvisoryBlind hostRead := by
  refine .accept (.ite (fun _ => Iff.rfl) (.next fun _ => rfl) (.ite (fun _ => Iff.rfl) (.next fun _ => rfl)
    fun s => ?_)) .rd
  have oq : s.withoutAdvisory.oq = s.oq := rfl
  simp only [oq]
  split
  · rfl
  · exact AdvisoryBlind.next readNotify_withoutAdvisory (takeHead _ _ s)

/-- An address byte looks at ACNT and CMDB. -/
theorem takeAddressByte_blind (b : Byte) : AdvisoryBlind (takeAddressByte b) := by
  refine .ite (fun _ => Iff.rfl) (fun s => ?_) (.ite (fun _ => Iff.rfl) (fun _ => rfl) (.next fun _ => rfl))
  have cmdb : s.withoutAdvisory.cmdb = s.cmdb := rfl
  simp only [cmdb]
  split <;> rfl

/-- A data byte looks at WCNT. -/
theorem takeDataByte_withoutAdvisory (b : Byte) (s : State) :
    (takeDataByte b s.withoutAdvisory).withoutAdvisory = (takeDataByte b s).withoutAdvisory := by
  have wcnt : s.withoutAdvisory.wcnt = s.wcnt := rfl
  unfold takeDataByte
  simp only [wcnt]
  split <;> rfl

/-- An acknowledgment looks at its byte. -/
theorem takeAcknowledge_withoutAdvisory (finish : TransactionState) (b : Byte) (s : State) :
    (takeAcknowledge finish b s.withoutAdvisory).withoutAdvisory = (takeAcknowledge finish b s).withoutAdvisory := by
  unfold takeAcknowledge
  split <;> rfl

/-- What the phase does with a written byte: the two phases that write the advisory bytes write nothing from
them. -/
theorem writeNotify_blind (b : Byte) : AdvisoryBlind (writeNotify b) := by
  intro s
  have ts : s.withoutAdvisory.ts = s.ts := rfl
  simp only [writeNotify, ts]
  split
  · rfl
  · exact takeAddressByte_blind b s
  · rfl
  · rfl
  · exact AdvisoryBlind.next (takeDataByte_withoutAdvisory b) s
  · split
    · exact AdvisoryBlind.next (takeAcknowledge_withoutAdvisory _ b) s
    · rfl

/-- A write makes its checks without the advisory bytes, then the phase takes the byte. -/
theorem hostWrite_blind (b : Byte) : AdvisoryBlind (hostWrite b) :=
  .accept (.unlessHalted (.ite (fun _ => Iff.rfl) (.next fun _ => rfl) (.ite (fun _ => Iff.rfl) (.next fun _ => rfl)
    (.ite (fun _ => Iff.rfl) (.next fun _ => rfl) fun s => writeNotify_blind b { s with bs := .hostDidWrite })))) .wr

/-- Settles O60: every instruction is blind to the advisory bytes. -/
theorem advisoryBytesAreNeverRead : Obligations.AdvisoryBytesAreNeverRead := by
  intro i s u same
  have blind : AdvisoryBlind (exec i) := by
    cases i with
    | rstA => exact .accept (.next (f := resetDevice) fun _ => rfl) .rstA
    | rstD => exact .accept (.next (f := id) fun _ => rfl) .rstD
    | dirR | dirW => exact setDirection_blind _ _
    | stbA => exact strobeRise_blind
    | stbD => exact strobeFall_blind
    | cmdA => exact commandRise_blind
    | cmdD => exact commandFall_blind
    | rd => exact hostRead_blind
    | naGetcmd | naRead | naWrdata | naWrvdata | naPerform => exact issueNextAction_blind _
    | wr | cmdUnknown | ackMismatch | read | write | writeVerify | ack => exact hostWrite_blind _
  exact blind.agree same

end Sys2Proof.Machine

/-! SUPPORT. The memory family (O32, O36, O43, O51, O58, O41, O52): byte transfers one at a time and in frames, the
block collected and delivered by them, and the store of a write. -/

namespace Sys2Proof.Machine

/-! ### Runs of events -/

/-- An event that is handled is followed by the rest of the list. -/
theorem runEvents_cons {i : Instr} {s t : State} (is : List Instr) (h : exec i s = .next t) :
    runEvents (i :: is) s = runEvents is t := by
  simp only [runEvents, h]

/-- A list of events that runs through is followed by the next list. -/
theorem runEvents_append {is : List Instr} {s t : State} (js : List Instr) (h : runEvents is s = .next t) :
    runEvents (is ++ js) s = runEvents js t := by
  induction is generalizing s with
  | nil => cases h; rfl
  | cons i is ih =>
    cases head : exec i s with
    | next u =>
      rw [runEvents_cons is head] at h
      rw [List.cons_append, runEvents_cons (is ++ js) head, ih h]
    | fault | refused => simp only [runEvents, head, reduceCtorEq] at h

/-- Reads of `m + n` bytes are reads of `m` and then of `n`. -/
theorem getBytes_add (m n : Nat) : getBytes (m + n) = getBytes m ++ getBytes n := by
  induction m with
  | zero => rw [Nat.zero_add]; rfl
  | succ m ih => rw [Nat.succ_add, getBytes, ih, getBytes, List.append_assoc]

/-! ### One byte transfer (R120) -/

/-- A running device with no transfer in progress, in direction `d`. -/
structure AtRest (d : ByteDirection) (s : State) : Prop where
  running : s.running
  bs : s.bs = .idle
  dir : s.dir = d
  lnStrobe : s.lnStrobe = false

/-- What keeps the byte layer keeps it at rest. -/
theorem AtRest.of_same {d : ByteDirection} {s t : State} (rest : AtRest d s) (same : SameByteLayer s t) :
    AtRest d t :=
  ⟨⟨same.halt.trans rest.running.1, same.lnReset.trans rest.running.2⟩, same.bs.trans rest.bs,
    same.dir.trans rest.dir, same.lnStrobe.trans rest.lnStrobe⟩

/-- BS after STB.A in direction `d` (R124). -/
def openedState : ByteDirection → ByteState
  | .hostRead => .hostWillRead
  | .hostWrite => .hostWillWrite

/-- BS after the bus access in direction `d` (R126, R127). -/
def servedState : ByteDirection → ByteState
  | .hostRead => .hostDidRead
  | .hostWrite => .hostDidWrite

/-- The state inside a transfer: STROBE high and BS on its way. -/
def inTransfer (b : ByteState) (s : State) : State := { s with lnStrobe := true, bs := b }

/-- A running device handles a well-formed event after its line has moved (R241). -/
theorem accept_running {e : Event} {s : State} {k : State → Host.Outcome State Fault Refusal}
    (wf : wellFormedStimulus e s = true) (running : s.halt = false) :
    accept e s (fun u => unlessHalted u k) = k (driveLine e s) := by
  rw [accept_wellFormed wf, unlessHalted_running (by rwa [driveLine_halt])]

/-- STB.A at rest opens a transfer (R124). -/
theorem exec_stbA_atRest {d : ByteDirection} {s : State} (rest : AtRest d s) :
    exec .stbA s = .next (inTransfer (openedState d) s) := by
  obtain ⟨⟨halt, low⟩, idle, dir, strobe⟩ := rest
  have wf : wellFormedStimulus .stbA s = true := by simp [wellFormedStimulus, low, strobe]
  simp only [exec, execStbA, strobeRise, accept_running wf halt, driveLine, inTransfer, idle, dir, ne_eq,
    not_true, if_false]
  cases d <;> rfl

/-- STB.D closes a transfer that has been served (R125). -/
theorem exec_stbD_served {d : ByteDirection} {s : State} (running : s.running) (served : s.bs = servedState d)
    (dir : s.dir = d) (strobe : s.lnStrobe = true) :
    exec .stbD s = .next { s with lnStrobe := false, bs := .idle } := by
  obtain ⟨halt, low⟩ := running
  have wf : wellFormedStimulus .stbD s = true := by simp [wellFormedStimulus, low, strobe]
  have agrees : (servedState d = .hostDidRead ∧ d = .hostRead) ∨ (servedState d = .hostDidWrite ∧ d = .hostWrite) := by
    cases d <;> decide
  simp only [exec, execStbD, strobeFall, accept_running wf halt, driveLine, served, dir, agrees, if_true]

/-- A byte transfer from rest: STROBE and BS are back where they were, and the rest is the access's doing. -/
theorem transfer_run {d : ByteDirection} {i : Instr} {s t : State} (rest : AtRest d s)
    (access : exec i (inTransfer (openedState d) s) = .next t)
    (same : SameByteLayer (inTransfer (servedState d) s) t) :
    runEvents [.stbA, i, .stbD] s = .next { t with bs := s.bs, lnStrobe := s.lnStrobe } := by
  have running : t.running := ⟨same.halt.trans rest.running.1, same.lnReset.trans rest.running.2⟩
  have close := exec_stbD_served running same.bs (same.dir.trans rest.dir) same.lnStrobe
  rw [runEvents_cons _ (exec_stbA_atRest rest), runEvents_cons _ access, runEvents_cons _ close, rest.bs, rest.lnStrobe]
  rfl

/-! ### A byte written -/

/-- A byte that the phase consumes passes the checks of WR (R127, R241). -/
theorem exec_wr_consumed {b : Byte} {s : State} (running : s.running) (consumes : consumesByte s.ts = true)
    (known : unknownCommandDue s = false) :
    exec (.wr b) (inTransfer .hostWillWrite s) = writeNotify b (inTransfer .hostDidWrite s) := by
  obtain ⟨halt, low⟩ := running
  have wf : wellFormedStimulus .wr (inTransfer .hostWillWrite s) = true := by
    simp only [wellFormedStimulus, inTransfer, low, Bool.not_false]
  have known : unknownCommandDue (inTransfer .hostWillWrite s) = false := known
  simp only [exec, execWr, hostWrite, accept_running wf halt, driveLine, known]
  simp only [inTransfer, consumes, ne_eq, not_true, Bool.not_true, Bool.false_eq_true, if_false]

/-- The transfer of a byte that the phase consumes (R120, R127). -/
theorem putByte_run {b : Byte} {s t : State} (rest : AtRest .hostWrite s) (consumes : consumesByte s.ts = true)
    (known : unknownCommandDue s = false) (notified : writeNotify b (inTransfer .hostDidWrite s) = .next t)
    (same : SameByteLayer (inTransfer .hostDidWrite s) t) :
    runEvents (putByte b) s = .next { t with bs := s.bs, lnStrobe := s.lnStrobe } :=
  transfer_run rest ((exec_wr_consumed rest.running consumes known).trans notified) same

/-! ### The address (R65, R191, R192) -/

/-- The transfer of one of the first two address bytes (R191). -/
theorem putByte_addressPart {s : State} (b : Byte) (rest : AtRest .hostWrite s) (phase : s.ts = .getAddress)
    (few : s.acnt.val < 2) :
    runEvents (putByte b) s =
      .next { s with addr := accumulateAddress s.addr b, acnt := s.acnt + 1 } := by
  have notLast : ¬ s.acnt = 2 := fun e => by simp [e] at few
  have notFull : ¬ s.acnt = 3 := fun e => by simp [e] at few
  refine putByte_run rest (by rw [phase]; rfl) (by simp [unknownCommandDue, notLast])
    (t := { inTransfer .hostDidWrite s with addr := accumulateAddress s.addr b, acnt := s.acnt + 1 }) ?_
    ⟨rfl, rfl, rfl, rfl, rfl, rfl⟩
  simp only [writeNotify, inTransfer, phase, takeAddressByte, notLast, notFull, if_false]

/-- The transfer of the third address byte (R192). -/
theorem putByte_addressLast {s : State} (b : Byte) {next : TransactionState} (rest : AtRest .hostWrite s)
    (phase : s.ts = .getAddress) (last : s.acnt = 2) (known : afterAddress s.cmdb = some next) :
    runEvents (putByte b) s =
      .next { s with addr := accumulateAddress s.addr b, acnt := 3, ts := next } := by
  refine putByte_run rest (by rw [phase]; rfl) (by simp [unknownCommandDue, known])
    (t := { inTransfer .hostDidWrite s with addr := accumulateAddress s.addr b, acnt := 3, ts := next }) ?_
    ⟨rfl, rfl, rfl, rfl, rfl, rfl⟩
  simp only [writeNotify, inTransfer, phase, takeAddressByte, last, known, if_true]

/-- The bits of an address after another byte: the byte below, the bits before it eight places up. -/
theorem getLsbD_accumulateAddress (addr : BlockAddr) (b : Byte) (i : Nat) :
    (accumulateAddress addr b).getLsbD i =
      if i < 8 then b.getLsbD i else decide (i < 24) && addr.getLsbD (i - 8) := by
  have above (h : ¬ i < 8) : b.getLsbD i = false := BitVec.getLsbD_of_ge b i (by omega)
  have inside (h : i < 8) : i < 24 := by omega
  by_cases low : i < 8
  · simp [accumulateAddress, low, inside low]
  · simp [accumulateAddress, low, above low]

/-- Three bytes accumulated are the address they spell, most significant byte first (R65). -/
theorem accumulateAddress_three (a b c : Byte) :
    accumulateAddress (accumulateAddress (accumulateAddress 0 a) b) c = a ++ b ++ c := by
  apply BitVec.eq_of_getLsbD_eq
  intro i hi
  simp only [getLsbD_accumulateAddress, BitVec.getLsbD_append]
  have inside : i < 24 := hi
  by_cases first : i < 8
  · simp [first]
  · by_cases second : i - 8 < 8
    · simp [first, second, inside]
    · have third : i - 8 - 8 < 8 := by omega
      simp [first, second, third, inside, show i - 8 < 24 by omega]

/-- Settles O32: two bytes that are part of the address, and the third that completes it. -/
theorem threeTransfersGiveABigEndianAddress : Obligations.ThreeTransfersGiveABigEndianAddress := by
  intro s a b c running idle dir strobe phase noBytes zero command
  have rest : AtRest .hostWrite s := ⟨running, idle, dir, strobe⟩
  have known : afterAddress s.cmdb = some .getReadRetryCount := by rw [command]; rfl
  have first := putByte_addressPart a rest phase (by simp [noBytes])
  have restFirst := rest.of_same
    (t := { s with addr := accumulateAddress s.addr a, acnt := s.acnt + 1 }) ⟨rfl, rfl, rfl, rfl, rfl, rfl⟩
  have second := putByte_addressPart b restFirst phase (by simp [noBytes])
  have restSecond := restFirst.of_same
    (t := { s with addr := accumulateAddress (accumulateAddress s.addr a) b, acnt := s.acnt + 1 + 1 })
    ⟨rfl, rfl, rfl, rfl, rfl, rfl⟩
  have third := putByte_addressLast c restSecond phase (by simp only [noBytes]; rfl) known
  rw [putBytes, runEvents_append _ first, putBytes, runEvents_append _ second, putBytes, runEvents_append _ third]
  simp only [putBytes, runEvents, zero, accumulateAddress_three]

/-! ### A data frame (R195, R196) -/

/-- A data byte is taken without regard to the byte layer. -/
theorem takeDataByte_inTransfer (b : Byte) (bs : ByteState) (s : State) :
    { takeDataByte b (inTransfer bs s) with bs := s.bs, lnStrobe := s.lnStrobe } = takeDataByte b s := by
  unfold takeDataByte
  by_cases room : s.wcnt.val < 532
  · rw [dif_pos room, dif_pos (show (inTransfer bs s).wcnt.val < 532 from room)]
    rfl
  · rw [dif_neg room, dif_neg (show ¬ (inTransfer bs s).wcnt.val < 532 from room)]
    rfl

/-- The transfer of a data byte (R195, R196). -/
theorem putByte_data {s : State} (b : Byte) (rest : AtRest .hostWrite s) (phase : s.ts = .getWrittenData) :
    runEvents (putByte b) s = .next (takeDataByte b s) := by
  have notAddress : unknownCommandDue s = false := by simp [unknownCommandDue, phase]
  have notified : writeNotify b (inTransfer .hostDidWrite s) = .next (takeDataByte b (inTransfer .hostDidWrite s)) := by
    simp only [writeNotify, inTransfer, phase]
  have same : SameByteLayer (inTransfer .hostDidWrite s) (takeDataByte b (inTransfer .hostDidWrite s)) := by
    rw [takeDataByte_frame]
    exact ⟨rfl, rfl, rfl, rfl, rfl, rfl⟩
  rw [putByte_run rest (by rw [phase]; rfl) notAddress notified same, takeDataByte_inTransfer]

/-- The data bytes of a frame taken one after the other. `putBytes_data` ties it to the transfers. -/
def takeDataBytes (data : List Byte) (s : State) : State := data.foldl (fun u b => takeDataByte b u) s

/-- The first byte, then the others. -/
theorem takeDataBytes_cons (b : Byte) (data : List Byte) (s : State) :
    takeDataBytes (b :: data) s = takeDataBytes data (takeDataByte b s) := rfl

/-- The transfers of a data frame of any length (R120, R195, R196). -/
theorem putBytes_data {s : State} (data : List Byte) (rest : AtRest .hostWrite s) (phase : s.ts = .getWrittenData) :
    runEvents (putBytes data) s = .next (takeDataBytes data s) := by
  induction data generalizing s with
  | nil => rfl
  | cons b data ih =>
    have frame := takeDataByte_frame b s
    rw [putBytes, runEvents_append _ (putByte_data b rest phase), takeDataBytes_cons, ih]
    · rw [frame]
      exact rest.of_same ⟨rfl, rfl, rfl, rfl, rfl, rfl⟩
    · rw [frame]
      exact phase

/-- A data frame changes at most BUF and WCNT. -/
theorem takeDataBytes_frame (data : List Byte) (s : State) :
    takeDataBytes data s = { s with buf := (takeDataBytes data s).buf, wcnt := (takeDataBytes data s).wcnt } := by
  induction data generalizing s with
  | nil => rfl
  | cons b data ih => rw [takeDataBytes_cons, ih, takeDataByte_frame]

/-- WCNT counts a data byte until 532 have come (R195, R196). -/
theorem takeDataByte_wcnt (b : Byte) (s : State) :
    (takeDataByte b s).wcnt.val = min (s.wcnt.val + 1) 532 := by
  unfold takeDataByte
  split
  · simp only
    omega
  · omega

/-- A data byte goes to BUF at index WCNT and nowhere else (R195). -/
theorem takeDataByte_buf (b : Byte) (s : State) (i : Nat) (h : i < 532) :
    (takeDataByte b s).buf[i] = if i = s.wcnt.val then b else s.buf[i] := by
  unfold takeDataByte
  split
  · simp only [Vector.getElem_set, eq_comm]
  · rw [if_neg (by omega)]

/-- WCNT counts the bytes of a frame until 532 have come. -/
theorem takeDataBytes_wcnt (data : List Byte) (s : State) :
    (takeDataBytes data s).wcnt.val = min (s.wcnt.val + data.length) 532 := by
  induction data generalizing s with
  | nil => simp only [takeDataBytes, List.foldl_nil, List.length_nil]; omega
  | cons b data ih => rw [takeDataBytes_cons, ih, takeDataByte_wcnt, List.length_cons]; omega

/-- A frame goes to BUF from index WCNT on, in its order; the bytes before and after it are kept. -/
theorem takeDataBytes_buf (data : List Byte) (s : State) (i : Nat) (h : i < 532) :
    (takeDataBytes data s).buf[i] =
      if i < s.wcnt.val then s.buf[i] else data.getD (i - s.wcnt.val) s.buf[i] := by
  induction data generalizing s with
  | nil => simp [takeDataBytes]
  | cons b data ih =>
    rw [takeDataBytes_cons, ih, takeDataByte_buf, takeDataByte_wcnt]
    by_cases before : i < s.wcnt.val
    · rw [if_pos (by omega), if_neg (by omega), if_pos before]
    by_cases here : i = s.wcnt.val
    · rw [if_pos (by omega), if_pos here, if_neg before, Nat.sub_eq_zero_of_le here.le, List.getD_cons_zero]
    · have next : i - s.wcnt.val = i - min (s.wcnt.val + 1) 532 + 1 := by omega
      rw [if_neg (by omega), if_neg here, if_neg before, next, List.getD_cons_succ]

/-- Settles O36: the frame's transfers are `takeDataBytes`, from WCNT 0. -/
theorem dataFrameFillsTheBuffer : Obligations.DataFrameFillsTheBuffer := by
  intro s data running idle dir strobe phase start fits
  refine ⟨_, putBytes_data data ⟨running, idle, dir, strobe⟩ phase, takeDataBytes_frame data s, ?_, fun i h => ?_⟩
  · rw [takeDataBytes_wcnt, start]
    simp [fits]
  · rw [takeDataBytes_buf, start]
    by_cases inside : i < data.length
    · simp [inside]
    · simp [inside]

/-! ### Bytes delivered (R126, R161 to R163) -/

/-- A byte is delivered without regard to the byte layer. -/
theorem readNotify_inTransfer (b : ByteState) (s : State) :
    { readNotify (inTransfer b s) with bs := s.bs, lnStrobe := s.lnStrobe } = readNotify s := by
  have ts : (inTransfer b s).ts = s.ts := rfl
  have oq : (inTransfer b s).oq = s.oq := rfl
  simp only [readNotify, ts, oq]
  split
  · split <;> rfl
  · split <;> rfl
  · split <;> rfl
  · split <;> rfl

/-- Bytes handed to the host, `tail` left in the queue: RDBYTE holds the last of them. -/
def delivered (bytes : List Byte) (last : Byte) (tail : List Byte) (s : State) : State :=
  { s with oq := tail, rdByte := last, outputs := s.outputs ++ bytes.map Output.busByte }

@[simp] theorem delivered_ts (bytes : List Byte) (last : Byte) (tail : List Byte) (s : State) :
    (delivered bytes last tail s).ts = s.ts := rfl
@[simp] theorem delivered_oq (bytes : List Byte) (last : Byte) (tail : List Byte) (s : State) :
    (delivered bytes last tail s).oq = tail := rfl

/-- Handing bytes over leaves the byte layer at rest. -/
theorem AtRest.delivered {d : ByteDirection} {s : State} (rest : AtRest d s) (bytes : List Byte) (last : Byte)
    (tail : List Byte) : AtRest d (delivered bytes last tail s) :=
  rest.of_same ⟨rfl, rfl, rfl, rfl, rfl, rfl⟩

/-- Bytes handed over in two portions. -/
theorem delivered_delivered (bytes more : List Byte) (v w : Byte) (tail left : List Byte) (s : State) :
    delivered more w left (delivered bytes v tail s) = delivered (bytes ++ more) w left s := by
  simp only [delivered, List.map_append, List.append_assoc]

/-- The transfer of one queued byte (R120, R126). -/
theorem getByte_run {s : State} {v : Byte} {tail : List Byte} (rest : AtRest .hostRead s)
    (queued : s.oq = v :: tail) : runEvents getByte s = .next (readNotify (delivered [v] v tail s)) := by
  have access : exec .rd (inTransfer .hostWillRead s) =
      .next (readNotify (takeHead v tail (inTransfer .hostWillRead s))) :=
    hostRead_queued rest.running rfl queued
  have same : SameByteLayer (inTransfer .hostDidRead s)
      (readNotify (takeHead v tail (inTransfer .hostWillRead s))) := by
    rw [readNotify_frame]
    exact ⟨rfl, rfl, rfl, rfl, rfl, rfl⟩
  rw [getByte, transfer_run rest access same]
  exact congrArg Host.Outcome.next (readNotify_inTransfer .hostDidRead (delivered [v] v tail s))

/-- In a phase that reacts to no byte before `v`, the transfers up to `v` deliver the bytes in their order, and the
phase reacts to the last (R69, R99). -/
theorem getBytes_run {s : State} (bytes : List Byte) {v : Byte} {tail : List Byte} (rest : AtRest .hostRead s)
    (queued : s.oq = bytes ++ v :: tail)
    (quiet : ∀ u : State, u.ts = s.ts → tail.length < u.oq.length → readNotify u = u) :
    runEvents (getBytes (bytes.length + 1)) s = .next (readNotify (delivered (bytes ++ [v]) v tail s)) := by
  induction bytes generalizing s with
  | nil => rw [List.length_nil, getBytes, runEvents_append _ (getByte_run rest queued)]; rfl
  | cons b bytes ih =>
    have unmoved : readNotify (delivered [b] b (bytes ++ v :: tail) s) = delivered [b] b (bytes ++ v :: tail) s :=
      quiet _ rfl (by simp only [delivered_oq, List.length_append, List.length_cons]; omega)
    have one := getByte_run (tail := bytes ++ v :: tail) rest queued
    rw [unmoved] at one
    rw [List.length_cons, getBytes, runEvents_append _ one, ih (rest.delivered _ _ _) rfl quiet, delivered_delivered]
    rfl

/-- The status bytes of a read end where the block is left in the queue (R162). -/
theorem getBytes_readStatus {s : State} (bytes : List Byte) {v : Byte} {tail : List Byte} (rest : AtRest .hostRead s)
    (phase : s.ts = .handleReadStatus) (queued : s.oq = bytes ++ v :: tail) (block : tail.length = 532) :
    runEvents (getBytes (bytes.length + 1)) s =
      .next { delivered (bytes ++ [v]) v tail s with ts := .handleReadData } := by
  have quiet (u : State) (same : u.ts = s.ts) (more : tail.length < u.oq.length) : readNotify u = u := by
    rw [readNotify_readStatus (same.trans phase), if_neg (by omega)]
  rw [getBytes_run bytes rest queued quiet, readNotify_readStatus (s := delivered _ _ _ s) phase, delivered_oq,
    if_pos block]
  rfl

/-- The bytes of the block end the transaction (R163). -/
theorem getBytes_readData {s : State} (bytes : List Byte) {v : Byte} (rest : AtRest .hostRead s)
    (phase : s.ts = .handleReadData) (queued : s.oq = bytes ++ [v]) :
    runEvents (getBytes (bytes.length + 1)) s =
      .next (enterAwaitingCommand (delivered (bytes ++ [v]) v [] s)) := by
  have quiet (u : State) (same : u.ts = s.ts) (more : ([] : List Byte).length < u.oq.length) : readNotify u = u := by
    rw [readNotify_readData (same.trans phase), if_neg (show ¬ u.oq.length = 0 from Nat.ne_of_gt more)]
  rw [getBytes_run bytes rest queued quiet, readNotify_readData (s := delivered _ _ _ s) phase, delivered_oq,
    if_pos List.length_nil]

/-- A block is its first 531 bytes and then its last. -/
theorem block_toList_eq (b : Block) : b.toList = b.toList.take 531 ++ [b[531]] := by
  have all : b.toList.take 532 = b.toList := List.take_of_length_le (by simp)
  rw [← Vector.getElem_toList (by simp), List.take_append_getElem, all]

/-- Settles O51: the four status bytes, then the 532 of the block. -/
theorem readDeliversTheStatusThenTheBlock : Obligations.ReadDeliversTheStatusThenTheBlock := by
  intro s running idle dir strobe phase queued
  have rest : AtRest .hostRead s := ⟨running, idle, dir, strobe⟩
  have status : runEvents (getBytes 4) s =
      .next { delivered [0, 0, 0, 0] 0 s.buf.toList s with ts := .handleReadData } :=
    getBytes_readStatus [0, 0, 0] rest phase queued Vector.length_toList
  have data := getBytes_readData (s.buf.toList.take 531)
    (s := { delivered [0, 0, 0, 0] 0 s.buf.toList s with ts := .handleReadData })
    (rest.of_same ⟨rfl, rfl, rfl, rfl, rfl, rfl⟩) rfl (block_toList_eq s.buf)
  have length : (s.buf.toList.take 531).length + 1 = 532 := by simp
  rw [length, ← block_toList_eq] at data
  have run := (runEvents_append (getBytes 532) status).trans data
  rw [← getBytes_add] at run
  refine ⟨_, run, ?_, rfl⟩
  simp only [enterAwaitingCommand, delivered, List.map_append, List.append_assoc]

/-! ### The store of a write (R149, R197) -/

/-- The block stored, byte by byte: what was collected, then the draw (R149, R197). -/
theorem collectedBlock_getElem (s : State) (k : Nat) (h : k < 532) :
    (collectedBlock s)[k] = if k < s.wcnt.val then s.buf[k] else Config.freeByte s.draws k := by
  simp [collectedBlock, Vector.getD, h]

/-- CMD.A and NA_PERFORM in GetWrittenData store the block and begin the status handshake (R149, R152). -/
theorem exec_storeRise {s : State} {i : Instr} (running : s.running) (low : s.lnCmd = false)
    (phase : s.ts = .getWrittenData) (rise : i = .cmdA ∨ i = .naPerform) :
    exec i s =
      .next (beginHandshake Config.naPerform .startStatusTransaction (storeCollected (driveLine .cmdA s))) := by
  obtain ⟨halt, reset⟩ := running
  have wf : wellFormedStimulus .cmdA s = true := by simp [wellFormedStimulus, reset, low]
  have stored : commandRise s =
      .next (beginHandshake Config.naPerform .startStatusTransaction (storeCollected (driveLine .cmdA s))) := by
    simp only [commandRise, accept_running wf halt, driveLine_ts, phase]
  obtain rfl | rfl := rise
  · exact stored
  · simpa only [exec, execNaPerform, issueNextAction, phase, riseTarget, true_or, if_true] using stored

/-- The two reserved addresses (R61). -/
theorem isReserved_iff {a : BlockAddr} : isReserved a = true ↔ a = 0xFFFFFE ∨ a = 0xFFFFFF := by
  simp only [isReserved, Config.metaAddrLo, Config.metaAddrHi, Bool.or_eq_true, beq_iff_eq]

/-- Settles O41: the block stored is `collectedBlock`, and a reserved address drops it. -/
theorem riseAfterTheDataStoresTheBlock : Obligations.RiseAfterTheDataStoresTheBlock := by
  intro s running low phase i rise
  refine ⟨_, collectedBlock s, exec_storeRise running low phase rise, fun k h collected => ?_, ?_⟩
  · rw [collectedBlock_getElem, if_pos collected]
  · have busy : (if s.busy then [] else [Output.busy true]) = busyNotice true s := rfl
    simp only [← isReserved_iff, busy]
    rfl

/-- Settles O43: `storeByte_disk_write` for the block stored. -/
theorem diskWriteChangesOneBlock : Obligations.DiskWriteChangesOneBlock := by
  intro s m i running low phase disk wf notLo notHi rise
  have free : isReserved s.addr = false := isReserved_eq_false_iff.2 ⟨notLo, notHi⟩
  refine ⟨_, exec_storeRise running low phase rise, fun a k => ?_⟩
  have sigma : (storeCollected (driveLine .cmdA s)).sigma = storeWrite (.disk m) s.addr (collectedBlock s) := by
    rw [storeCollected_sigma, driveLine_addr, free, driveLine_sigma, disk]
    rfl
  rw [beginHandshake_sigma, sigma, storeByte_disk_write wf, disk]
  split
  · exact collectedBlock_getElem s k k.isLt
  · rfl

/-- Settles O58: the item taken off the stimulus is no part of the store, and every reaction keeps its form. -/
theorem everyStepKeepsTheStoreCanonical : Obligations.EveryStepKeepsTheStoreCanonical := by
  intro s t wf h
  obtain rfl | ⟨i, rest, h⟩ := step_next h
  · exact wf
  · obtain ⟨-, reaction⟩ := exec_reacts h
    exact reaction.store_wf (by rwa [driveLine_sigma])

/-- Settles O52: the default store by its definition, byte by byte (R63). -/
theorem defaultStoreAnswersThePattern : Obligations.DefaultStoreAnswersThePattern := by
  intro a blk
  refine ⟨fun i h => ?_, storeWrite_pattern a blk⟩
  rw [show storeRead .pattern a = patternBlock from rfl, patternBlock, blockOf_getElem _ _ h, BitVec.toNat_ofNat]

end Sys2Proof.Machine

/-! SUPPORT. The encoding family (O1, O2, O50, O3, O4, O7, O46): the fields of an event word, the decoder table by
table, the byte codes as events, and the handshake as a run. -/

namespace Sys2Proof

/-! ### An event word and its fields (R91) -/

/-- The code of an assembled event word. -/
theorem eventField_append (e : BitVec 4) (d : Byte) : eventField (0#4 ++ e ++ d) = e := by
  rw [eventField, BitVec.extractLsb'_append_eq_of_le (by decide)]
  exact BitVec.extractLsb'_append_eq_right

/-- The data of an assembled event word. -/
theorem dataField_append (e : BitVec 4) (d : Byte) : dataField (0#4 ++ e ++ d) = d :=
  BitVec.extractLsb'_append_eq_right

/-- An assembled event word has twelve bits. -/
theorem aboveField_append (e : BitVec 4) (d : Byte) : aboveField (0#4 ++ e ++ d) = 0#4 := by
  rw [aboveField, BitVec.extractLsb'_append_eq_of_le (by decide)]
  exact BitVec.extractLsb'_append_eq_left

/-- A word with no bit above the twelve is its code and its data. -/
theorem eq_append_of_aboveField {w : EventWord} (h : aboveField w = 0#4) :
    w = 0#4 ++ eventField w ++ dataField w := by
  have upper : aboveField w ++ eventField w = w.extractLsb' 8 8 :=
    BitVec.extractLsb'_append_extractLsb'_eq_extractLsb' rfl
  have whole : w.extractLsb' 8 8 ++ dataField w = w := BitVec.extractLsb'_append_extractLsb'
  rw [← h, upper, whole]

/-- The word the encoder writes for WR. -/
theorem encode_wr (d : Byte) : encode (.wr d) = .event (0#4 ++ 0x9#4 ++ d) := by
  have word : 0x900#16 + d.zeroExtend 16 = 0#4 ++ 0x9#4 ++ d := by
    apply BitVec.eq_of_toNat_eq
    rw [BitVec.toNat_append, ← Nat.shiftLeft_add_eq_or_of_lt d.isLt]
    simp
    omega
  exact congrArg Stimulus.event word

/-! ### Event words -/

/-- An assembled event word decodes by its code. -/
theorem decodeEvent_append (e : BitVec 4) (d : Byte) : decodeEvent (0#4 ++ e ++ d) =
    if e = 0x9#4 then .ok (.wr d)
    else (plainEvent e).elim (.error .noSuchEvent) fun i => if d = 0 then .ok i else .error .dataNotZero := by
  simp only [decodeEvent, eventField_append, dataField_append, aboveField_append]
  cases plainEvent e <;> rfl

/-- The rows of R91 but WR: each is well formed, an event, and encoded by its code with data 0. -/
theorem plainEvent_row : ∀ e : BitVec 4, ∀ i ∈ plainEvent e,
    e ≠ 0x9#4 ∧ i.wellFormed = true ∧ encode i = .event (0#4 ++ e ++ 0#8) ∧ i.codeSpace = none := by
  decide

/-- A named event decodes with data 0 and is rejected with any other. -/
theorem decodeEvent_plain {e : BitVec 4} {i : Instr} (row : plainEvent e = some i) (d : Byte) :
    decodeEvent (0#4 ++ e ++ d) = if d = 0 then .ok i else .error .dataNotZero := by
  rw [decodeEvent_append, if_neg (plainEvent_row e i row).1, row, Option.elim_some]

/-- WR takes every data byte. -/
theorem decodeEvent_write (d : Byte) : decodeEvent (0#4 ++ 0x9#4 ++ d) = .ok (.wr d) := by
  rw [decodeEvent_append, if_pos rfl]

/-- A code above WR names no event. -/
theorem decodeEvent_unknown {e : BitVec 4} (above : 0x9#4 < e) (d : Byte) :
    decodeEvent (0#4 ++ e ++ d) = .error .noSuchEvent := by
  have unnamed : ∀ c : BitVec 4, 0x9#4 < c → plainEvent c = none := by decide
  rw [decodeEvent_append, if_neg (BitVec.ne_of_lt above).symm, unnamed e above, Option.elim_none]

/-! ### What the decoder answers -/

/-- An instruction of a code space (none for an event) that is what a stimulus item encodes. -/
structure Denotes (space : Option CodeSpace) (st : Stimulus) (i : Instr) : Prop where
  wellFormed : i.wellFormed = true
  encode : encode i = st
  codeSpace : i.codeSpace = space

/-- An assembled event word is read as an event that it encodes. -/
theorem decodeEvent_append_denotes {e : BitVec 4} {d : Byte} {i : Instr}
    (h : decodeEvent (0#4 ++ e ++ d) = .ok i) : Denotes none (.event (0#4 ++ e ++ d)) i := by
  by_cases write : e = 0x9#4
  · subst write
    cases (decodeEvent_write d).symm.trans h
    exact ⟨rfl, encode_wr d, rfl⟩
  rw [decodeEvent_append, if_neg write] at h
  cases row : plainEvent e with
  | none => rw [row, Option.elim_none] at h; cases h
  | some j =>
    obtain ⟨-, wellFormed, encoded, space⟩ := plainEvent_row e j row
    by_cases zero : d = 0
    · rw [row, Option.elim_some, if_pos zero] at h
      cases h
      exact ⟨wellFormed, zero ▸ encoded, space⟩
    · rw [row, Option.elim_some, if_neg zero] at h
      cases h

/-- Every event word that is read is twelve bits (R91). -/
theorem decodeEvent_denotes {w : EventWord} {i : Instr} (h : decodeEvent w = .ok i) :
    Denotes none (.event w) i := by
  by_cases twelve : aboveField w = 0#4
  · rw [eq_append_of_aboveField twelve] at h ⊢
    exact decodeEvent_append_denotes h
  · rw [decodeEvent, if_pos (show aboveField w ≠ 0 from twelve)] at h
    cases h

/-- Every byte is a command byte (R94). -/
theorem decodeCommand_denotes (b : Byte) : Denotes (some .command) (.code b) (decodeCommand b) := by
  unfold decodeCommand
  split_ifs with read write verify
  · exact ⟨rfl, congrArg Stimulus.code read.symm, rfl⟩
  · exact ⟨rfl, congrArg Stimulus.code write.symm, rfl⟩
  · exact ⟨rfl, congrArg Stimulus.code verify.symm, rfl⟩
  · have unnamed : (b != Config.cmdRead && b != Config.cmdWrite && b != Config.cmdWriteVerify) = true := by
      simp [read, write, verify]
    exact ⟨unnamed, rfl, rfl⟩

/-- The bytes that are read as a next action (R95). -/
theorem decodeNextAction_denotes {b : Byte} {i : Instr} (h : decodeNextAction b = some i) :
    Denotes (some .nextAction) (.code b) i := by
  unfold decodeNextAction at h
  split_ifs at h with code code code code code <;> cases h <;>
    exact ⟨rfl, congrArg Stimulus.code code.symm, rfl⟩

/-- Every byte is an acknowledgment byte (R96). -/
theorem decodeAcknowledge_denotes (b : Byte) : Denotes (some .acknowledge) (.code b) (decodeAcknowledge b) := by
  unfold decodeAcknowledge
  split_ifs with ack
  · exact ⟨rfl, congrArg Stimulus.code ack.symm, rfl⟩
  · exact ⟨bne_iff_ne.2 ack, rfl, rfl⟩

/-- A byte code is read as an instruction of the code space it is read in (R93). -/
theorem decodeCode_denotes {space : CodeSpace} {b : Byte} {i : Instr} (h : decodeCode space b = .ok i) :
    Denotes (some space) (.code b) i := by
  cases space with
  | command => cases h; exact decodeCommand_denotes b
  | acknowledge => cases h; exact decodeAcknowledge_denotes b
  | nextAction =>
    cases code : decodeNextAction b with
    | none => simp only [decodeCode, code, reduceCtorEq] at h
    | some j =>
      simp only [decodeCode, code, Except.ok.injEq] at h
      subst h
      exact decodeNextAction_denotes code

/-- A stimulus item is read as an event, or in its code space. -/
theorem decode_denotes {space : Option CodeSpace} {st : Stimulus} {i : Instr} (h : decode space st = .ok i) :
    Denotes none st i ∨ Denotes space st i := by
  cases st with
  | event w => exact .inl (decodeEvent_denotes h)
  | code b =>
    cases space with
    | none => cases h
    | some space => exact .inr (decodeCode_denotes h)

end Sys2Proof

namespace Sys2Proof.Machine

/-! ### The encoding statements -/

/-- Settles O1: the round trip of each row of the opcode table. -/
theorem decodeOfEncodeIsTheInstruction : Obligations.DecodeOfEncodeIsTheInstruction := by
  intro i
  cases i with
  | rstA => exact Laws.RoundTrip.rstA
  | rstD => exact Laws.RoundTrip.rstD
  | dirR => exact Laws.RoundTrip.dirR
  | dirW => exact Laws.RoundTrip.dirW
  | stbA => exact Laws.RoundTrip.stbA
  | stbD => exact Laws.RoundTrip.stbD
  | cmdA => exact Laws.RoundTrip.cmdA
  | cmdD => exact Laws.RoundTrip.cmdD
  | rd => exact Laws.RoundTrip.rd
  | wr b => exact Laws.RoundTrip.wr b
  | read => exact Laws.RoundTrip.read
  | write => exact Laws.RoundTrip.write
  | writeVerify => exact Laws.RoundTrip.writeVerify
  | cmdUnknown b => exact Laws.RoundTrip.cmdUnknown b
  | naGetcmd => exact Laws.RoundTrip.naGetcmd
  | naRead => exact Laws.RoundTrip.naRead
  | naWrdata => exact Laws.RoundTrip.naWrdata
  | naWrvdata => exact Laws.RoundTrip.naWrvdata
  | naPerform => exact Laws.RoundTrip.naPerform
  | ack => exact Laws.RoundTrip.ack
  | ackMismatch b => exact Laws.RoundTrip.ackMismatch b

/-- Settles O2: `decode_denotes`, an event or an instruction of the space. -/
theorem decodedInstructionEncodesBack : Obligations.DecodedInstructionEncodesBack := by
  intro space st i h
  obtain event | code := decode_denotes h
  · exact ⟨event.wellFormed, event.encode, .inl event.codeSpace⟩
  · exact ⟨code.wellFormed, code.encode, .inr code.codeSpace⟩

/-- Settles O3: the nine named events, WR, and the codes above it. -/
theorem eventWordsDecodeByTheTable : Obligations.EventWordsDecodeByTheTable := by
  intro d
  refine ⟨fun p listed => decodeEvent_plain ?_ d, decodeEvent_write d, fun e above => decodeEvent_unknown above d⟩
  revert p
  decide

/-- Settles O4: ten closed words, evaluated. -/
theorem spelledOutWordsDecode : Obligations.SpelledOutWordsDecode := by
  unfold Obligations.SpelledOutWordsDecode
  decide

/-! ### The byte codes as events (R93, R95) -/

/-- Every written code is the bus write of its byte (R93, R127). -/
theorem exec_writtenByte {i : Instr} {b : Byte} (h : writtenByte i = some b) (s : State) :
    exec i s = hostWrite b s := by
  cases i <;> cases h <;> rfl

/-- Settles O7: both sides are `hostWrite b`. -/
theorem writtenCodesAreTheWriteOfTheirByte : Obligations.WrittenCodesAreTheWriteOfTheirByte :=
  fun _ _ s written => (exec_writtenByte written s).trans (exec_writtenByte (i := .wr _) rfl s).symm

/-- Where the rise is illegal a next-action instruction is the rise (R153). -/
theorem issueNextAction_illegal (c : Byte) {s : State} (illegal : riseTarget s.ts = none) :
    issueNextAction c s = exec .cmdA s := by
  simp only [issueNextAction, illegal]
  rfl

/-- Where the rise queues its code a next-action instruction is the rise (R142). -/
theorem issueNextAction_queued {c : Byte} {start : TransactionState} {s : State}
    (target : riseTarget s.ts = some (c, start)) : issueNextAction c s = exec .cmdA s := by
  simp only [issueNextAction, target, true_or, if_true]
  rfl

/-- Where the rise queues another code a running machine refuses the instruction (R95, log entry 8). -/
theorem issueNextAction_otherCode {c d : Byte} {start : TransactionState} {s : State}
    (target : riseTarget s.ts = some (d, start)) (other : d ≠ c) (running : s.halt = false) :
    issueNextAction c s = .refused (.codeNotInPhase c) := by
  simp only [issueNextAction, target, other, running, Bool.false_eq_true, or_self, if_false]

/-- Settles O46: the four cases of `issueNextAction`. -/
theorem nextActionIsTheRiseThatQueuesIt : Obligations.NextActionIsTheRiseThatQueuesIt := by
  intro s i c code
  rw [(exec_nextAction code).2]
  refine ⟨issueNextAction_halted c, issueNextAction_illegal c, fun d start target => ⟨?_, ?_⟩⟩
  · rintro rfl
    exact issueNextAction_queued target
  · exact issueNextAction_otherCode target

/-! ### The handshake (R106, R142) -/

/-- A running COMMAND rise is the legal edge that its phase gives (R143 to R149). -/
theorem exec_cmdA_of_edge {s t : State} (running : s.running) (low : s.lnCmd = false)
    (edge : CommandEdge .cmdA (driveLine .cmdA s) t) : exec .cmdA s = .next t := by
  obtain ⟨halt, reset⟩ := running
  have wf : wellFormedStimulus .cmdA s = true := by simp [wellFormedStimulus, reset, low]
  simp only [exec, execCmdA, commandRise, accept_running wf halt]
  generalize driveLine .cmdA s = u at edge
  cases edge with
  | abortRead phase | store phase => rw [phase]
  | rise target notRead notStore =>
    cases phase : u.ts with
    | awaitingCommand | awaitingReadGoahead | awaitingWriteGoahead | awaitingWriteVerifyGoahead
    | awaitingStatusGoahead => rw [phase] at target; cases target; rfl
    | handleReadData => exact absurd phase notRead
    | getWrittenData => exact absurd phase notStore
    | _ => rw [phase] at target; cases target

/-- A running COMMAND fall is the legal edge that its phase gives (R154 to R160). -/
theorem exec_cmdD_of_edge {s t : State} (running : s.running) (high : s.lnCmd = true)
    (edge : CommandEdge .cmdD (driveLine .cmdD s) t) : exec .cmdD s = .next t := by
  obtain ⟨halt, reset⟩ := running
  have wf : wellFormedStimulus .cmdD s = true := by simp [wellFormedStimulus, reset, high]
  simp only [exec, execCmdD, commandFall, accept_running wf halt]
  cases edge with
  | fallIdle phase | fallToCommand phase | fallToReadStatus phase | fallToWrittenData phase
  | fallToWriteStatus phase => rw [phase]

/-- A DIRECTION edge turns the bus while no transfer is in progress (R122, R123). -/
theorem setDirection_idle {e : Event} (d : ByteDirection) {s : State} (edge : e = .dirR ∨ e = .dirW)
    (running : s.running) (idle : s.bs = .idle) : setDirection e d s = .next { s with dir := d } := by
  obtain ⟨halt, reset⟩ := running
  have wf : wellFormedStimulus e s = true := by obtain rfl | rfl := edge <;> simp [wellFormedStimulus, reset]
  have still : driveLine e s = s := by obtain rfl | rfl := edge <;> rfl
  simp only [setDirection, accept_running wf halt, still, idle, ne_eq, not_true, if_false]

/-- The transfer of the acknowledgment byte in a Handshake state (R120, R166). -/
theorem putByte_acknowledge {s : State} {finish : TransactionState} (rest : AtRest .hostWrite s)
    (shake : finishAfterHandshake s.ts = some finish) :
    runEvents (putByte Config.ackByte) s = .next { s with ts := finish } := by
  obtain ⟨phase, rfl⟩ | ⟨phase, rfl⟩ | ⟨phase, rfl⟩ | ⟨phase, rfl⟩ := finishAfterHandshake_eq_some shake
  all_goals
    refine putByte_run rest (by rw [phase]; rfl) (by simp [unknownCommandDue, phase])
      (t := { inTransfer .hostDidWrite s with ts := _ }) ?_ ⟨rfl, rfl, rfl, rfl, rfl, rfl⟩
    simp only [writeNotify, inTransfer, phase, finishAfterHandshake, takeAcknowledge, if_true]

/-- The transfer of a next-action byte in its Start state (R120, R161). -/
theorem getByte_start {s : State} {c : Byte} {shake : TransactionState} (rest : AtRest .hostRead s)
    (queued : s.oq = [c]) (start : handshakeAfterStart s.ts = some shake) :
    runEvents getByte s = .next { delivered [c] c [] s with ts := shake } := by
  rw [getByte_run rest queued, readNotify_start (s := delivered [c] c [] s) start]

/-- The state in which a handshake that queued `c` waits for its COMMAND fall (R142). -/
def answered (c : Byte) (finish : TransactionState) (s : State) : State :=
  { s with
    ts := finish, dir := .hostWrite, rdByte := c, busy := true, lnCmd := true
    outputs := s.outputs ++ [.busy true, .busByte c] }

/-- A handshake from rest: the rise, the code read, the acknowledgment written, the fall (R106, R142). -/
theorem handshake_run {d : ByteDirection} {s t : State} {c : Byte} {start shake finish : TransactionState}
    (rest : AtRest d s) (low : s.lnCmd = false) (quiet : s.busy = false) (empty : s.oq = [])
    (rise : CommandEdge .cmdA (driveLine .cmdA s) (beginHandshake c start (driveLine .cmdA s)))
    (delivery : handshakeAfterStart start = some shake) (acknowledgment : finishAfterHandshake shake = some finish)
    (fall : CommandEdge .cmdD (driveLine .cmdD (answered c finish s)) t) : runEvents handshake s = .next t := by
  have begins := exec_cmdA_of_edge rest.running low rise
  generalize begun : beginHandshake c start (driveLine .cmdA s) = u at begins
  have turned (e : ByteDirection) : AtRest e { u with dir := e } :=
    begun ▸ ⟨rest.running, rest.bs, rfl, rest.lnStrobe⟩
  have toRead : exec .dirR u = .next { u with dir := .hostRead } :=
    setDirection_idle .hostRead (.inl rfl) (turned u.dir).running (turned u.dir).bs
  have read : runEvents getByte { u with dir := .hostRead } =
      .next { delivered [c] c [] { u with dir := .hostRead } with ts := shake } :=
    getByte_start (turned .hostRead) (begun ▸ beginHandshake_oq_of_nil c start empty) (begun ▸ delivery)
  have toWrite : exec .dirW { delivered [c] c [] { u with dir := .hostRead } with ts := shake } =
      .next { delivered [c] c [] { u with dir := .hostWrite } with ts := shake } :=
    setDirection_idle .hostWrite (.inr rfl) (turned u.dir).running (turned u.dir).bs
  have written : runEvents (putByte Config.ackByte)
        { delivered [c] c [] { u with dir := .hostWrite } with ts := shake } =
      .next { delivered [c] c [] { u with dir := .hostWrite } with ts := finish } :=
    putByte_acknowledge ((turned .hostWrite).of_same ⟨rfl, rfl, rfl, rfl, rfl, rfl⟩) acknowledgment
  have reached : { delivered [c] c [] { u with dir := .hostWrite } with ts := finish } = answered c finish s := by
    subst begun
    simp [delivered, answered, busyNotice, driveLine, quiet, empty]
  have ends : exec .cmdD (answered c finish s) = .next t := exec_cmdD_of_edge rest.running rfl fall
  have events : handshake = .cmdA :: .dirR :: (getByte ++ .dirW :: (putByte Config.ackByte ++ [.cmdD])) := rfl
  rw [events, runEvents_cons _ begins, runEvents_cons _ toRead, runEvents_append _ read, runEvents_cons _ toWrite,
    runEvents_append _ written, reached, runEvents_cons _ ends, runEvents]

/-- Settles O50: `handshake_run` with the rise and the fall of each row. -/
theorem handshakeSequenceEntersTheNextPhase : Obligations.HandshakeSequenceEntersTheNextPhase := by
  intro s running idle strobe low quiet empty p row phase
  have rest : AtRest s.dir s := ⟨running, idle, rfl, strobe⟩
  simp only [List.mem_cons, List.not_mem_nil, or_false] at row
  obtain rfl | rfl | rfl | rfl := row <;> simp only at phase
  all_goals
    have rise := CommandEdge.rise (s := driveLine .cmdA s) (congrArg riseTarget phase) (phase.trans_ne (by decide))
      (phase.trans_ne (by decide))
  · rw [handshake_run rest low quiet empty rise rfl rfl (.fallToCommand rfl)]
    simp [answered, driveLine, setBusy, busyNotice, Config.naGetcmd, phase, low, quiet, empty]
  · rw [handshake_run rest low quiet empty rise rfl rfl (.fallToReadStatus rfl)]
    simp [answered, driveLine, setBusy, busyNotice, Config.naRead, pushQueue, statusWord, Config.statusWord, phase, low,
      quiet, empty]
  · rw [handshake_run rest low quiet empty rise rfl rfl (.fallToWrittenData rfl)]
    simp [answered, driveLine, setBusy, busyNotice, Config.naWrdata, phase, low, quiet, empty]
  · rw [handshake_run rest low quiet empty rise rfl rfl (.fallToWrittenData rfl)]
    simp [answered, driveLine, setBusy, busyNotice, Config.naWrvdata, phase, low, quiet, empty]

end Sys2Proof.Machine

/-! SUPPORT. The byte transfer family (O19 to O23, O25): the edges of DIRECTION and STROBE and the bus accesses of a
running device, in and out of their ByteState. -/

namespace Sys2Proof.Machine

/-! ### The lines of the byte layer (R122 to R125) -/

/-- A DIRECTION edge inside a transfer is fatal (R122, R123). -/
theorem setDirection_outOfOrder {e : Event} (d : ByteDirection) {s : State} (edge : e = .dirR ∨ e = .dirW)
    (running : s.running) (notIdle : s.bs ≠ .idle) :
    setDirection e d s = .next (raise (.byteOrderViolation e s.bs s.ts) s) := by
  obtain ⟨halt, reset⟩ := running
  have wf : wellFormedStimulus e s = true := by obtain rfl | rfl := edge <;> simp [wellFormedStimulus, reset]
  have still : driveLine e s = s := by obtain rfl | rfl := edge <;> rfl
  simp only [setDirection, accept_running wf halt, still, notIdle, ne_eq, not_false_eq_true, if_true]

/-- Settles O19: DIR is written in `setDirection_idle`, and the event is fatal in `setDirection_outOfOrder`. -/
theorem directionIsSetWhileIdle : Obligations.DirectionIsSetWhileIdle :=
  fun _ running =>
    ⟨setDirection_idle .hostRead (.inl rfl) running, setDirection_idle .hostWrite (.inr rfl) running,
      setDirection_outOfOrder .hostRead (.inl rfl) running, setDirection_outOfOrder .hostWrite (.inr rfl) running⟩

/-- STB.A inside a transfer is fatal, the line having moved (R124). -/
theorem exec_stbA_outOfOrder {s : State} (running : s.running) (low : s.lnStrobe = false) (notIdle : s.bs ≠ .idle) :
    exec .stbA s = .next (raise (.byteOrderViolation .stbA s.bs s.ts) { s with lnStrobe := true }) := by
  obtain ⟨halt, reset⟩ := running
  have wf : wellFormedStimulus .stbA s = true := by simp [wellFormedStimulus, reset, low]
  simp only [exec, execStbA, strobeRise, accept_running wf halt, driveLine, notIdle, ne_eq, not_false_eq_true, if_true]

/-- Settles O20: a device at rest opens a transfer (`exec_stbA_atRest`), in either direction. -/
theorem strobeRiseOpensATransfer : Obligations.StrobeRiseOpensATransfer :=
  fun _ running low =>
    ⟨fun idle dir => exec_stbA_atRest ⟨running, idle, dir, low⟩,
      fun idle dir => exec_stbA_atRest ⟨running, idle, dir, low⟩, exec_stbA_outOfOrder running low⟩

/-- The accesses that R125 accepts are those served in the direction of DIR. -/
theorem eq_servedState_iff {b : ByteState} {d : ByteDirection} :
    b = servedState d ↔ (b = .hostDidRead ∧ d = .hostRead) ∨ (b = .hostDidWrite ∧ d = .hostWrite) := by
  cases d <;> simp [servedState]

/-- STB.D with no access served in the direction of DIR is fatal, the line having moved (R125). -/
theorem exec_stbD_unserved {s : State} (running : s.running) (high : s.lnStrobe = true)
    (unserved : s.bs ≠ servedState s.dir) :
    exec .stbD s = .next (raise (.byteOrderViolation .stbD s.bs s.ts) { s with lnStrobe := false }) := by
  obtain ⟨halt, reset⟩ := running
  have wf : wellFormedStimulus .stbD s = true := by simp [wellFormedStimulus, reset, high]
  simp only [exec, execStbD, strobeFall, accept_running wf halt, driveLine]
  exact if_neg (mt eq_servedState_iff.2 unserved)

/-- Settles O21: BS is the one that an access in the direction of DIR leaves, or it is not. -/
theorem strobeFallClosesATransfer : Obligations.StrobeFallClosesATransfer := by
  intro s running high
  split
  next served => exact exec_stbD_served running (eq_servedState_iff.2 served) rfl high
  next unserved => exact exec_stbD_unserved running high (mt eq_servedState_iff.1 unserved)

/-! ### The bus accesses (R126, R127) -/

/-- A bus access moves no line, so it is well formed while RESET is low (R92). -/
theorem wellFormedStimulus_busAccess {e : Event} {s : State} (access : e = .rd ∨ e = .wr) (low : s.lnReset = false) :
    wellFormedStimulus e s = true := by
  obtain rfl | rfl := access <;> simp only [wellFormedStimulus, low, Bool.not_false]

/-- A running RD whose turn it is not is fatal, whatever is queued (R126, R241). -/
theorem hostRead_outOfOrder {s : State} (running : s.running) (notTurn : s.bs ≠ .hostWillRead) :
    hostRead s = .next (readUnspecified (raise (.byteOrderViolation .rd s.bs s.ts) s)) := by
  obtain ⟨halt, reset⟩ := running
  have wf : wellFormedStimulus .rd s = true := wellFormedStimulus_busAccess (.inl rfl) reset
  simp only [hostRead, accept_wellFormed wf, driveLine, halt, notTurn, Bool.false_eq_true, if_false, ne_eq,
    not_false_eq_true, if_true]

/-- A running WR whose turn it is not is fatal, whatever the phase (R127, R241). -/
theorem hostWrite_outOfOrder (b : Byte) {s : State} (running : s.running) (notTurn : s.bs ≠ .hostWillWrite) :
    hostWrite b s = .next (raise (.byteOrderViolation .wr s.bs s.ts) s) := by
  obtain ⟨halt, reset⟩ := running
  have wf : wellFormedStimulus .wr s = true := wellFormedStimulus_busAccess (.inr rfl) reset
  simp only [hostWrite, accept_running wf halt, driveLine, notTurn, ne_eq, not_false_eq_true, if_true]

/-- Settles O22: RD by `hostRead_outOfOrder`, and every written code as the write of its byte. -/
theorem busAccessOutOfOrderIsFatal : Obligations.BusAccessOutOfOrderIsFatal :=
  fun s running =>
    ⟨hostRead_outOfOrder running, fun _ b written notTurn =>
      (exec_writtenByte written s).trans (hostWrite_outOfOrder b running notTurn)⟩

/-- A running RD in its turn with nothing queued underruns (R126, R233). -/
theorem hostRead_empty {s : State} (running : s.running) (turn : s.bs = .hostWillRead) (empty : s.oq = []) :
    hostRead s = .next (readUnspecified (raise (.outboundUnderrun s.ts) s)) := by
  obtain ⟨halt, reset⟩ := running
  have wf : wellFormedStimulus .rd s = true := wellFormedStimulus_busAccess (.inl rfl) reset
  simp only [hostRead, accept_wellFormed wf, driveLine, halt, turn, empty, Bool.false_eq_true, if_false, ne_eq,
    not_true]

/-- Settles O23: RD is `hostRead`, in its turn on an empty queue. -/
theorem readOfAnEmptyQueueUnderruns : Obligations.ReadOfAnEmptyQueueUnderruns :=
  fun _ => hostRead_empty

/-- A running RD in a Start state takes the head of the queue to the Handshake state (R126, R161). -/
theorem hostRead_start {s : State} {v : Byte} {rest : List Byte} {shake : TransactionState} (running : s.running)
    (turn : s.bs = .hostWillRead) (queued : s.oq = v :: rest) (start : handshakeAfterStart s.ts = some shake) :
    hostRead s = .next { takeHead v rest s with ts := shake } := by
  rw [hostRead_queued running turn queued, readNotify_start (s := takeHead v rest s) start]

/-- Settles O25: each row of the table is a row of `handshakeAfterStart`. -/
theorem readInAStartStateLeadsToTheHandshakeState : Obligations.ReadInAStartStateLeadsToTheHandshakeState := by
  intro s v rest running turn queued p row phase
  have start : handshakeAfterStart p.1 = some p.2 := by
    simp only [List.mem_cons, List.not_mem_nil, or_false] at row
    obtain rfl | rfl | rfl | rfl | rfl := row <;> rfl
  exact hostRead_start running turn queued (phase ▸ start)

end Sys2Proof.Machine

/-! SUPPORT. The transaction family (O26 to O28, O37 to O40, O42, O45, O47 to O49): the bytes a phase delivers or
takes, the COMMAND rise and the COMMAND fall of a running device, where a rule takes them and where none does. -/

namespace Sys2Proof.Machine

/-! ### Bytes delivered at the end of a phase (R162 to R164) -/

/-- Settles O26: `readNotify_readStatus` on the state without the head of the queue. -/
theorem readStatusEndsWhenTheBlockIsLeft : Obligations.ReadStatusEndsWhenTheBlockIsLeft := by
  intro s v rest running turn queued phase
  refine (hostRead_queued running turn queued).trans (congrArg Host.Outcome.next ?_)
  rw [readNotify_readStatus (s := takeHead v rest s) phase, takeHead_oq]
  by_cases blockLeft : rest.length = 532
  · simp only [blockLeft, if_true]
    rfl
  · simp only [blockLeft, if_false, ← phase]
    rfl

/-- The two phases that end a transaction react to a byte alike: to the last one only (R163, R164). -/
theorem readNotify_lastPhase {s : State} (phase : s.ts = .handleReadData ∨ s.ts = .handleWriteStatus) :
    readNotify s = if s.oq = [] then enterAwaitingCommand s else s := by
  simp only [← List.length_eq_zero_iff]
  exact phase.elim readNotify_readData readNotify_writeStatus

/-- Settles O27: `readNotify_lastPhase` on the state without the head of the queue. -/
theorem lastByteReadEndsTheTransaction : Obligations.LastByteReadEndsTheTransaction := by
  intro s v rest running turn queued phase
  refine (hostRead_queued running turn queued).trans (congrArg Host.Outcome.next ?_)
  rw [readNotify_lastPhase (s := takeHead v rest s) phase, takeHead_oq]
  by_cases last : rest = []
  · simp only [last, if_true]
    rfl
  · simp only [last, if_false]
    rfl

/-! ### Bytes written (R127, R166, R167, R169) -/

/-- A byte that the phase does not consume is fatal, and BS does not move (R127, R169). -/
theorem hostWrite_unconsumed (b : Byte) {s : State} (running : s.running) (turn : s.bs = .hostWillWrite)
    (unconsumed : consumesByte s.ts = false) :
    hostWrite b s = .next (raise (.transactionOrderViolation .wr s.ts (some b)) s) := by
  obtain ⟨halt, reset⟩ := running
  have wf : wellFormedStimulus .wr s = true := wellFormedStimulus_busAccess (.inr rfl) reset
  simp only [hostWrite, accept_running wf halt, driveLine, turn, unconsumed, ne_eq, not_true, Bool.not_false, if_false,
    if_true]

/-- Settles O28: none of the 17 states consumes a byte. -/
theorem writeNoStateConsumesIsFatal : Obligations.WriteNoStateConsumesIsFatal := by
  intro s b running turn phase
  have unconsumed : consumesByte s.ts = false := (by decide : ∀ ts ∈ _, consumesByte ts = false) s.ts phase
  exact hostWrite_unconsumed b running turn unconsumed

/-- A byte written in a Handshake state is the acknowledgment or a mismatch (R166, R167). -/
theorem hostWrite_handshake (b : Byte) {s : State} {finish : TransactionState} (running : s.running)
    (turn : s.bs = .hostWillWrite) (shake : finishAfterHandshake s.ts = some finish) :
    hostWrite b s = .next (takeAcknowledge finish b { s with bs := .hostDidWrite }) := by
  obtain ⟨halt, reset⟩ := running
  have wf : wellFormedStimulus .wr s = true := wellFormedStimulus_busAccess (.inr rfl) reset
  simp only [hostWrite, accept_running wf halt, driveLine, turn]
  obtain ⟨phase, rfl⟩ | ⟨phase, rfl⟩ | ⟨phase, rfl⟩ | ⟨phase, rfl⟩ := finishAfterHandshake_eq_some shake
  all_goals simp [phase, consumesByte, finishAfterHandshake, unknownCommandDue, writeNotify]

/-- Settles O37: each row of the table is a row of `finishAfterHandshake`, and 0x55 is the acknowledgment. -/
theorem acknowledgmentLeadsToTheFinishState : Obligations.AcknowledgmentLeadsToTheFinishState := by
  intro s running turn p row phase
  have shake : finishAfterHandshake s.ts = some p.2 :=
    phase ▸ (by decide : ∀ p ∈ _, finishAfterHandshake (Prod.fst p) = some p.2) p row
  have acknowledged : hostWrite Config.ackByte s = .next { s with bs := .hostDidWrite, ts := p.2 } := by
    rw [hostWrite_handshake _ running turn shake, takeAcknowledge, if_pos rfl]
  exact ⟨acknowledged, acknowledged⟩

/-- BUSY deasserted is notified where it was asserted (R33). -/
theorem busyNotice_false (s : State) : busyNotice false s = if s.busy then [.busy false] else [] := by
  cases busy : s.busy <;> simp [busyNotice, busy]

/-- What an acknowledgment mismatch writes (R167, R237); HALT is not among it. -/
theorem ackMismatchAbort_eq (b : Byte) (s : State) :
    ackMismatchAbort b s = { s with
      ts := .awaitingCommand, cmdv := false, oq := [], busy := false
      err := latchError s.err .ackMismatch
      outputs := s.outputs ++ [.report (.ackMismatch b s.ts)] ++ busyNotice false s } := by
  have haltKept : (ackMismatchAbort b s).halt = s.halt := Bool.or_false s.halt
  rw [← haltKept]
  rfl

/-- Settles O38: a byte other than 0x55 in a Handshake state aborts by `ackMismatchAbort`. -/
theorem ackMismatchAbortsTheTransaction : Obligations.AckMismatchAbortsTheTransaction := by
  intro s b running turn phase other i code
  have written : writtenByte i = some b := by obtain rfl | rfl := code <;> rfl
  have mismatch : b ≠ Config.ackByte := other
  have handshaking : (finishAfterHandshake s.ts).isSome :=
    (by decide : ∀ ts ∈ _, (finishAfterHandshake ts).isSome) s.ts phase
  obtain ⟨finish, shake⟩ := Option.isSome_iff_exists.1 handshaking
  rw [exec_writtenByte written, hostWrite_handshake b running turn shake, takeAcknowledge, if_neg mismatch,
    ackMismatchAbort_eq, busyNotice_false]
  rfl

/-! ### The COMMAND rise (R143 to R153) -/

/-- CMD.A and the next-action instruction of the phase are its legal edge (R95, R142). -/
theorem exec_rise_of_edge {i : Instr} {s t : State} {c : Byte} {start : TransactionState} (running : s.running)
    (low : s.lnCmd = false) (target : riseTarget s.ts = some (c, start))
    (rise : i = .cmdA ∨ nextActionCode i = some c) (edge : CommandEdge .cmdA (driveLine .cmdA s) t) :
    exec i s = .next t := by
  have risen := exec_cmdA_of_edge running low edge
  obtain rfl | code := rise
  · exact risen
  · rw [(exec_nextAction code).2, issueNextAction_queued target, risen]

/-- Settles O39: each row of the table is a row of `riseTarget`, and neither a read nor a store. -/
theorem goAheadRiseQueuesItsCode : Obligations.GoAheadRiseQueuesItsCode := by
  intro s running low p row phase i rise
  obtain ⟨target, code, notRead, notStore⟩ :=
    (by decide : ∀ p ∈ _, riseTarget (Prod.fst p) = some p.2.2 ∧ nextActionCode p.2.1 = some p.2.2.1 ∧
      p.1 ≠ .handleReadData ∧ p.1 ≠ .getWrittenData) p row
  rw [← phase] at target notRead notStore
  exact exec_rise_of_edge running low target (rise.imp_right fun e => (congrArg nextActionCode e).trans code)
    (.rise target notRead notStore)

/-- A COMMAND rise that no rule takes is fatal, the line having moved (R153). -/
theorem exec_cmdA_illegal {s : State} (running : s.running) (low : s.lnCmd = false)
    (illegal : riseTarget s.ts = none) :
    exec .cmdA s = .next (raise (.transactionOrderViolation .cmdA s.ts none) { s with lnCmd := true }) := by
  obtain ⟨halt, reset⟩ := running
  have wf : wellFormedStimulus .cmdA s = true := by simp [wellFormedStimulus, reset, low]
  simp only [exec, execCmdA, commandRise, accept_running wf halt, driveLine]
  cases phase : s.ts with
  | awaitingCommand | awaitingReadGoahead | awaitingWriteGoahead | awaitingWriteVerifyGoahead | handleReadData
  | getWrittenData | awaitingStatusGoahead => rw [phase] at illegal; cases illegal
  | _ => rfl

/-- Settles O45: `riseTarget` has no row for the 19 states. -/
theorem riseElsewhereIsFatal : Obligations.RiseElsewhereIsFatal := by
  intro s running low phase
  have illegal : riseTarget s.ts = none := (by decide : ∀ ts ∈ _, riseTarget ts = none) s.ts phase
  exact exec_cmdA_illegal running low illegal

/-- Settles O40: the abort of a read is the edge `abortRead`; the two status phases have no edge. -/
theorem riseDuringReadDataAbortsTheRead : Obligations.RiseDuringReadDataAbortsTheRead := by
  intro s running low
  refine ⟨fun phase i rise => ?_, fun phase => ?_⟩
  · have target : riseTarget s.ts = some (Config.naGetcmd, .startTransaction) := congrArg riseTarget phase
    exact exec_rise_of_edge running low target (rise.imp_right (congrArg nextActionCode)) (.abortRead phase)
  · have illegal : riseTarget s.ts = none := by obtain phase | phase := phase <;> exact congrArg riseTarget phase
    exact exec_cmdA_illegal running low illegal

/-- With 532 bytes collected the block handed to the store is BUF (R149). -/
theorem collectedBlock_full {s : State} (full : s.wcnt.val = 532) : collectedBlock s = s.buf :=
  block_ext fun k h => by rw [collectedBlock_getElem, if_pos (full ▸ h)]

/-- Settles O42: the store's rise outside the reserved addresses, with the bytes of `collectedBlock`. -/
theorem shortWriteLeavesTheTailUnspecified : Obligations.ShortWriteLeavesTheTailUnspecified := by
  intro s running low phase notLo notHi quiet
  have free : isReserved s.addr = false := isReserved_eq_false_iff.2 ⟨notLo, notHi⟩
  refine ⟨_, collectedBlock s, exec_storeRise running low phase (.inl rfl), ?_, ?_, collectedBlock_full,
    collectedBlock_getElem s⟩
  · have block : collectedBlock (driveLine .cmdA s) = collectedBlock s := rfl
    simp [block, writeNotice, free, busyNotice, quiet]
  · rw [beginHandshake_sigma, storeCollected_sigma, driveLine_addr, free, driveLine_sigma]
    rfl

/-! ### The COMMAND fall (R154 to R160) -/

/-- Settles O47: the edge `fallIdle`, by the level of BUSY. -/
theorem fallInAwaitingCommandHasNoEffect : Obligations.FallInAwaitingCommandHasNoEffect := by
  intro s running high phase
  have fallen := exec_cmdD_of_edge running high (.fallIdle ((driveLine_ts s .cmdD).trans phase))
  rw [fallen, setBusy, busyNotice_false]
  refine ⟨fun busy => ?_, fun busy => ?_⟩
  · simp [driveLine, busy]
  · simp [driveLine, busy]

/-- Settles O48: the edge of each Finish state. -/
theorem fallEndsTheHandshake : Obligations.FallEndsTheHandshake := by
  intro s running high
  have notice : (if s.busy then [Output.busy false] else []) = busyNotice false s := (busyNotice_false s).symm
  simp only [notice, List.append_assoc]
  refine ⟨fun phase => ?_, fun phase => ?_, fun phase => ?_, fun phase => ?_⟩
  · exact exec_cmdD_of_edge running high (.fallToCommand phase)
  · exact exec_cmdD_of_edge running high (.fallToReadStatus phase)
  · exact exec_cmdD_of_edge running high (.fallToWrittenData phase)
  · exact exec_cmdD_of_edge running high (.fallToWriteStatus phase)

/-- The phases in which a rule takes the COMMAND fall (R154 to R159). `exec_cmdD_illegal` ties them to
`commandFall`. -/
def fallPhases : List TransactionState :=
  [.awaitingCommand, .finishHandshake, .finishReadHandshake, .finishWriteHandshake, .finishStatusHandshake]

/-- A COMMAND fall outside AwaitingCommand and the Finish states is fatal, the line having moved (R160). -/
theorem exec_cmdD_illegal {s : State} (running : s.running) (high : s.lnCmd = true)
    (illegal : s.ts ∉ fallPhases) :
    exec .cmdD s = .next (raise (.transactionOrderViolation .cmdD s.ts none) { s with lnCmd := false }) := by
  obtain ⟨halt, reset⟩ := running
  have wf : wellFormedStimulus .cmdD s = true := by simp [wellFormedStimulus, reset, high]
  simp only [exec, execCmdD, commandFall, accept_running wf halt, driveLine]
  cases phase : s.ts with
  | awaitingCommand | finishHandshake | finishReadHandshake | finishWriteHandshake | finishStatusHandshake =>
    simp [fallPhases, phase] at illegal
  | _ => rfl

/-- Settles O49: none of the 21 states is one of those in which the fall has a rule. -/
theorem fallElsewhereIsFatal : Obligations.FallElsewhereIsFatal := by
  intro s running high phase
  have illegal : s.ts ∉ fallPhases := (by decide : ∀ ts ∈ _, ts ∉ fallPhases) s.ts phase
  exact exec_cmdD_illegal running high illegal

end Sys2Proof.Machine

/-! SUPPORT. The Command Interpreter family (O29 to O31, O33 to O35): the bytes that a phase of the interpreter takes
from a running device's WR, one phase at a time. -/

namespace Sys2Proof.Machine

/-! ### The checks of WR passed (R127, R192, R241) -/

/-- A byte that the phase consumes moves BS and is notified (R127). -/
theorem hostWrite_consumed (b : Byte) {s : State} (running : s.running) (turn : s.bs = .hostWillWrite)
    (consumes : consumesByte s.ts = true) (known : unknownCommandDue s = false) :
    hostWrite b s = writeNotify b { s with bs := .hostDidWrite } := by
  obtain ⟨halt, reset⟩ := running
  have wf : wellFormedStimulus .wr s = true := wellFormedStimulus_busAccess (.inr rfl) reset
  simp only [hostWrite, accept_running wf halt, driveLine, turn, consumes, known, ne_eq, not_true, Bool.not_true,
    Bool.false_eq_true, if_false]

/-- The third address byte of an unknown command is fatal, and BS does not move (R127, R192). -/
theorem hostWrite_unknownCommand (b : Byte) {s : State} (running : s.running) (turn : s.bs = .hostWillWrite)
    (phase : s.ts = .getAddress) (last : s.acnt = 2) (unknown : afterAddress s.cmdb = none) :
    hostWrite b s = .next (raise (.unknownCommand s.cmdb) s) := by
  obtain ⟨halt, reset⟩ := running
  have wf : wellFormedStimulus .wr s = true := wellFormedStimulus_busAccess (.inr rfl) reset
  have consumes : consumesByte s.ts = true := congrArg consumesByte phase
  have due : unknownCommandDue s = true := by simp [unknownCommandDue, phase, last, unknown]
  simp only [hostWrite, accept_running wf halt, driveLine, turn, consumes, due, ne_eq, not_true, Bool.not_true,
    Bool.false_eq_true, if_false, if_true]

/-- Outside GetAddress no command is found unknown (R192). -/
theorem unknownCommandDue_elsewhere {s : State} (elsewhere : s.ts ≠ .getAddress) : unknownCommandDue s = false := by
  simp [unknownCommandDue, elsewhere]

/-- A command byte that no row of the command table names leads nowhere (R192). -/
theorem afterAddress_eq_none {c : Byte} (notRead : c ≠ Config.cmdRead) (notWrite : c ≠ Config.cmdWrite)
    (notVerify : c ≠ Config.cmdWriteVerify) : afterAddress c = none := by
  rw [afterAddress, if_neg notRead, if_neg notWrite, if_neg notVerify]

/-! ### The byte that a phase takes (R190 to R196) -/

/-- The command byte (R190). -/
theorem hostWrite_command (b : Byte) {s : State} (running : s.running) (turn : s.bs = .hostWillWrite)
    (phase : s.ts = .getCommand) :
    hostWrite b s = .next (takeCommand b { s with bs := .hostDidWrite }) := by
  rw [hostWrite_consumed b running turn (congrArg consumesByte phase) (unknownCommandDue_elsewhere (by simp [phase]))]
  simp only [writeNotify, phase]

/-- One of the first two address bytes (R191). -/
theorem hostWrite_addressPart (b : Byte) {s : State} (running : s.running) (turn : s.bs = .hostWillWrite)
    (phase : s.ts = .getAddress) (few : s.acnt.val < 2) :
    hostWrite b s =
      .next { s with bs := .hostDidWrite, addr := accumulateAddress s.addr b, acnt := s.acnt + 1 } := by
  have notLast : ¬ s.acnt = 2 := fun e => by simp [e] at few
  have notFull : ¬ s.acnt = 3 := fun e => by simp [e] at few
  rw [hostWrite_consumed b running turn (congrArg consumesByte phase) (by simp [unknownCommandDue, notLast])]
  simp only [writeNotify, phase, takeAddressByte, notLast, notFull, if_false]

/-- The third address byte of a known command (R192). -/
theorem hostWrite_addressLast (b : Byte) {s : State} {next : TransactionState} (running : s.running)
    (turn : s.bs = .hostWillWrite) (phase : s.ts = .getAddress) (last : s.acnt = 2)
    (known : afterAddress s.cmdb = some next) :
    hostWrite b s =
      .next { s with bs := .hostDidWrite, addr := accumulateAddress s.addr b, acnt := 3, ts := next } := by
  rw [hostWrite_consumed b running turn (congrArg consumesByte phase) (by simp [unknownCommandDue, known])]
  simp only [writeNotify, phase, takeAddressByte, last, known, if_true]

/-- The retry-count byte (R193). -/
theorem hostWrite_retryCount (b : Byte) {s : State} (running : s.running) (turn : s.bs = .hostWillWrite)
    (phase : s.ts = .getReadRetryCount) :
    hostWrite b s = .next (takeRetryCount b { s with bs := .hostDidWrite }) := by
  rw [hostWrite_consumed b running turn (congrArg consumesByte phase) (unknownCommandDue_elsewhere (by simp [phase]))]
  simp only [writeNotify, phase]

/-- The sparing-threshold byte (R194). -/
theorem hostWrite_sparingThreshold (b : Byte) {s : State} (running : s.running) (turn : s.bs = .hostWillWrite)
    (phase : s.ts = .getReadSparingThreshold) :
    hostWrite b s = .next (takeSparingThreshold b { s with bs := .hostDidWrite }) := by
  rw [hostWrite_consumed b running turn (congrArg consumesByte phase) (unknownCommandDue_elsewhere (by simp [phase]))]
  simp only [writeNotify, phase]

/-- A data byte (R195, R196). -/
theorem hostWrite_data (b : Byte) {s : State} (running : s.running) (turn : s.bs = .hostWillWrite)
    (phase : s.ts = .getWrittenData) :
    hostWrite b s = .next (takeDataByte b { s with bs := .hostDidWrite }) := by
  rw [hostWrite_consumed b running turn (congrArg consumesByte phase) (unknownCommandDue_elsewhere (by simp [phase]))]
  simp only [writeNotify, phase]

/-! ### The obligations -/

/-- Settles O29: the codes of the command table are the writes of their bytes, and GetCommand takes any byte. -/
theorem commandByteIsTaken : Obligations.CommandByteIsTaken := by
  intro s running turn phase
  have taken {i : Instr} {b : Byte} (code : writtenByte i = some b) :
      exec i s = .next (takeCommand b { s with bs := .hostDidWrite }) :=
    (exec_writtenByte code s).trans (hostWrite_command b running turn phase)
  exact ⟨taken rfl, taken rfl, taken rfl, fun _ => taken rfl, fun _ => taken rfl⟩

/-- Settles O30: `accumulateAddress` is the shift of R191. -/
theorem addressByteIsShiftedIn : Obligations.AddressByteIsShiftedIn :=
  fun _ b => hostWrite_addressPart b

/-- Settles O31: the three commands of `afterAddress`, and none for any other byte. -/
theorem thirdAddressByteChoosesThePath : Obligations.ThirdAddressByteChoosesThePath := by
  intro s b running turn phase last
  have path {next : TransactionState} (known : afterAddress s.cmdb = some next) :
      exec (.wr b) s =
        .next { s with bs := .hostDidWrite, addr := accumulateAddress s.addr b, acnt := 3, ts := next } :=
    hostWrite_addressLast b running turn phase last known
  split_ifs with read write verify
  · exact path (congrArg afterAddress read)
  · exact path (congrArg afterAddress write)
  · exact path (congrArg afterAddress verify)
  · exact hostWrite_unknownCommand b running turn phase last (afterAddress_eq_none read write verify)

/-- Settles O33: RETRY and TS are what `takeRetryCount` writes. -/
theorem retryCountByteIsStored : Obligations.RetryCountByteIsStored :=
  fun _ b => hostWrite_retryCount b

/-- Settles O34: the block fetched and its notice, for a reserved address and for any other. -/
theorem sparingThresholdByteFetchesTheBlock : Obligations.SparingThresholdByteFetchesTheBlock := by
  intro s b running turn phase
  refine (hostWrite_sparingThreshold b running turn phase).trans ?_
  simp only [← isReserved_iff, takeSparingThreshold, fetchedBlock, fetchNotice]
  split
  · rw [List.append_nil]
  · rfl

/-- Settles O35: the two branches of `takeDataByte`. -/
theorem dataByteIsCollectedOrDropped : Obligations.DataByteIsCollectedOrDropped := by
  intro s b running turn phase
  have taken : exec (.wr b) s = .next (takeDataByte b { s with bs := .hostDidWrite }) :=
    hostWrite_data b running turn phase
  refine ⟨fun room => ?_, fun full => ?_⟩
  · rw [taken, takeDataByte, dif_pos room]
  · have noRoom : ¬ s.wcnt.val < 532 := by omega
    rw [taken, takeDataByte, dif_neg noRoom]

end Sys2Proof.Machine

/-! SUPPORT. The Status Builder family (O54): the status word is four zero bytes (R210), and a flag in a zero byte is 0
at every bit position, so the open P_STATUS_BITPOS is not observable (R211 to R213). -/

namespace Sys2Proof.Machine

/-- P_STATUS is `00 00 00 00` (R210). -/
theorem statusWord_eq_replicate : statusWord = Vector.replicate 4 0 := rfl

theorem statusWord_getElem {k : Nat} (inWord : k < 4) : statusWord[k] = 0 := by
  simp only [statusWord_eq_replicate, Vector.getElem_replicate]

/-- The bit position of the flag plays no part. -/
theorem flagValue_eq_false_of_byte_eq_zero {w : StatusWord} {f : StatusFlag} (zero : w[flagByte f] = 0) :
    flagValue w f = false := by
  rw [flagValue, zero]
  exact BitVec.getLsbD_zero

/-- Settles O54: every byte of the status word is 0, the byte of a flag and S3 among them. -/
theorem statusWordIsAllZero : Obligations.StatusWordIsAllZero := by
  refine ⟨?word, fun f => ?flag, ?retryCount⟩
  case word => exact congrArg Vector.toList statusWord_eq_replicate
  case flag => exact flagValue_eq_false_of_byte_eq_zero (statusWord_getElem (flagByte f).isLt)
  case retryCount => exact statusWord_getElem (by decide : 3 < 4)

end Sys2Proof.Machine

/-! SUPPORT. The exceptions family (O17): what taking a fatal error writes (R236). -/

namespace Sys2Proof.Machine

/-- A fatal error sets HALT whatever it was, and latches its code in an ERR of 0 (R236). -/
theorem raise_of_reportFatal {r : Report} (fatal : reportFatal r = true) (s : State) :
    raise r s = { s with
      outputs := s.outputs ++ [.report r]
      err := if s.err = .noError then reportCode r else s.err
      halt := true } := by
  rw [raise, latchError, fatal, Bool.or_true]

/-- Settles O17: the four reports are fatal, and each carries the code of its kind. -/
theorem fatalErrorsReportLatchAndHalt : Obligations.FatalErrorsReportLatchAndHalt := by
  intro s e bs ts ob c
  refine ⟨?byteOrder, ?transactionOrder, ?underrun, ?unknownCommand⟩
  case byteOrder => exact raise_of_reportFatal (r := .byteOrderViolation e bs ts) rfl s
  case transactionOrder => exact raise_of_reportFatal (r := .transactionOrderViolation e ts ob) rfl s
  case underrun => exact raise_of_reportFatal (r := .outboundUnderrun ts) rfl s
  case unknownCommand => exact raise_of_reportFatal (r := .unknownCommand c) rfl s

end Sys2Proof.Machine

/-! SUPPORT. The reset family (O11, O8, O10, O13): one edge of RESET, a pulse as the re-initialisation it performs, and
what is refused between the two edges (R260, R261, R263, R264). -/

namespace Sys2Proof.Machine

/-- RST.D with RESET high lowers the line (R261). -/
theorem exec_rstD {s : State} (high : s.lnReset = true) : exec .rstD s = .next { s with lnReset := false } :=
  accept_wellFormed (e := .rstD) high

/-- The instruction RST.D is the one its event carries. -/
theorem event_eq_rstD {i : Instr} : i.event = .rstD ↔ i = .rstD := by
  cases i <;> simp [Instr.event]

/-- Every event but RST.D is ill formed while RESET is high (R92, R263). -/
theorem illFormed_of_lnReset {e : Event} {s : State} (high : s.lnReset = true) (notFall : e ≠ .rstD) :
    wellFormedStimulus e s = false := by
  refine Bool.eq_false_iff.2 fun wf => ?_
  exact Bool.false_ne_true ((lnReset_of_wellFormed wf notFall).symm.trans high)

/-- An instruction carried by an ill-formed event is refused, in the next-action form too (R92, R95). -/
theorem exec_refused_of_illFormed {i : Instr} {s : State} (illFormed : wellFormedStimulus i.event s = false) :
    ∃ r, exec i s = .refused r := by
  cases code : nextActionCode i with
  | none => exact ⟨_, exec_illFormed code illFormed⟩
  | some c =>
    obtain ⟨carried, eq⟩ := exec_nextAction code
    rw [eq]
    exact issueNextAction_illFormed c (carried ▸ illFormed)

/-- One pulse is the re-initialisation: the line is back at the level it had (R260, R261). -/
theorem resetPulse_run {s : State} (low : s.lnReset = false) : runEvents resetPulse s = .next (resetDevice s) := by
  have rise := exec_rstA low
  have fall : exec .rstD (resetDevice (driveLine .rstA s)) = .next (resetDevice s) := by
    rw [exec_rstD rfl, ← low]
    rfl
  rw [resetPulse, runEvents_cons _ rise, runEvents_cons _ fall, runEvents]

/-- Where the registers have their reset values a RESET only draws BUF again; BUSY is 0, so nothing is notified
(R33, R264). -/
theorem resetDevice_of_atReset {s : State} (reset : atReset s) :
    resetDevice s = { s with buf := freeBlock s.draws, draws := s.draws + 1 } := by
  obtain ⟨ts, bs, cmdv, cmdb, addr, acnt, retry, spare, wcnt, oq, busy, err, halt⟩ := reset
  have silent : s.outputs ++ busyNotice false s = s.outputs := by rw [busyNotice, if_pos busy, List.append_nil]
  simp only [resetDevice, setBusy, silent, ts, bs, cmdv, cmdb, addr, acnt, retry, spare, wcnt, oq, busy, err, halt]

/-- Settles O11: the second pulse starts where `resetDevice_of_atReset` applies. -/
theorem twoResetPulsesLeaveWhatOneLeaves : Obligations.TwoResetPulsesLeaveWhatOneLeaves := by
  intro s low
  have once : runEvents resetPulse s = .next (resetDevice s) := resetPulse_run low
  have again : runEvents resetPulse (resetDevice s) = .next (resetDevice (resetDevice s)) := resetPulse_run low
  have reset : atReset (resetDevice s) := atReset_resetDevice s
  refine ⟨_, _, once, (runEvents_append _ once).trans again, reset, rfl, rfl, rfl, rfl, ?_⟩
  rw [resetDevice_of_atReset reset]

/-- Settles O8: what `resetDevice` writes, the notification by `busyNotice_false`. -/
theorem resetRiseReinitialises : Obligations.ResetRiseReinitialises := by
  intro s low
  refine ⟨_, exec_rstA low, ?_⟩
  rw [← busyNotice_false]
  rfl

/-- Settles O10: `exec_rstD`. -/
theorem resetFallLowersTheLine : Obligations.ResetFallLowersTheLine :=
  fun _ => exec_rstD

/-- Settles O13: every instruction but RST.D is carried by an event that is ill formed. -/
theorem heldInResetOnlyRstDHasAMeaning : Obligations.HeldInResetOnlyRstDHasAMeaning := by
  intro s high
  refine ⟨exec_rstD high, fun i notFall => ?_⟩
  have otherEvent : i.event ≠ .rstD := fun e => notFall (event_eq_rstD.1 e)
  exact exec_refused_of_illFormed (illFormed_of_lnReset high otherEvent)

end Sys2Proof.Machine
